-- ==== Sys2Proof/Word.lean ====
section
/-! DEFINITION. The value types of 00_scope R8 and the two operand spaces of 20_memory R29, as bit patterns. -/

namespace Sys2Proof

/-- R7: a byte. -/
abbrev Byte := BitVec 8

/-- R8, R11: a stored coefficient word (`COEF_W` = 16). -/
abbrev U16 := BitVec 16

/-- R8, R16: a raw ADC value (`RAW_W` = 20), read with `toNat`. -/
abbrev U20 := BitVec 20

/-- R8: an unsigned 32-bit value, read with `toNat`. -/
abbrev U32 := BitVec 32

/-- R8: a two's complement 32-bit value (`W32`), read with `toInt`. -/
abbrev S32 := BitVec 32

/-- R8: a two's complement 64-bit value (`W64`), read with `toInt`. -/
abbrev S64 := BitVec 64

/-- R29(a): the calibration block, offsets 0..23 (`CAL_BYTES` = 24). -/
abbrev CalBuf := Vector Byte 24

/-- R29(b): the measurement block, offsets 0..5 (`MEAS_BYTES` = 6). -/
abbrev MeasBuf := Vector Byte 6

/-- R11: the coefficient file `CAL.W[0..11]` (`NCOEF` = 12). -/
abbrev Cal := Vector U16 12

end Sys2Proof
end

