-- ==== Sys2Proof/Syntax.lean ====
section
/-! DEFINITION. The seven operations of 30_encoding R41, one constructor for each row of spec/opcode_table.json. -/

namespace Sys2Proof

/-- A request that selects a row of R41's opcode map, with its operand bytes (R42). The index of `RDTC` and `RDPC` is the
4-bit field `CMD[7:4]` as it stands: the values R43 (d), (e) call illegal can be written down, and raise `IllegalOp`. -/
inductive Instr where
  /-- R64: load the calibration block. -/
  | ldcal (buf : CalBuf)
  /-- R69: load one measurement block. -/
  | ldraw (buf : MeasBuf)
  /-- R73: compute the temperature of the current sample. -/
  | tcomp
  /-- R81: compute the pressure, 32-bit variant. -/
  | pcomp32
  /-- R87: compute the pressure, 64-bit variant. -/
  | pcomp64
  /-- R65: read back temperature coefficient `idx`. -/
  | rdtc (idx : BitVec 4)
  /-- R66: read back pressure coefficient `idx`. -/
  | rdpc (idx : BitVec 4)
deriving DecidableEq, Repr

end Sys2Proof
end

