-- ==== Sys2Proof/WellFormed.lean ====
section
/-! DEFINITION. The legal `idx` column of 30_encoding R41: which terms of `Instr` are legal requests. The payload lengths
of R34 are in the types. -/

namespace Sys2Proof

/-- R41, R43: the index of `RDTC` is 1..3, that of `RDPC` is 1..9; every other request is legal as it stands. -/
def Instr.wellFormed : Instr → Bool
  | .ldcal _ => true
  | .ldraw _ => true
  | .tcomp => true
  | .pcomp32 => true
  | .pcomp64 => true
  | .rdtc idx => decide (1 ≤ idx.toNat ∧ idx.toNat ≤ 3)
  | .rdpc idx => decide (1 ≤ idx.toNat ∧ idx.toNat ≤ 9)

end Sys2Proof
end

