-- ==== Sys2Proof/Decode.lean ====
section
/-! DEFINITION. The request formats, the command byte, the opcode map, the decoder and the encoder of 30_encoding R39 to
R44. The decoder is total on byte strings and says by name what it rejects. -/

namespace Sys2Proof

/-- R39: the four request formats. -/
inductive Format where
  | n | x | c | m
deriving DecidableEq, Repr

/-- R39: the length in bytes of a request of each format. -/
def formatLength : Format → Nat
  | .n => 1
  | .x => 1
  | .c => 25
  | .m => 7

/-- R41: the seven operation codes that select an operation (000 selects none). -/
inductive Op where
  | ldcal | ldraw | tcomp | pcomp32 | pcomp64 | rdtc | rdpc
deriving DecidableEq, Repr

/-- R41: one row of the opcode map. -/
structure OpRow where
  op : Op
  format : Format
  pattern : Byte
  mask : Byte
deriving DecidableEq, Repr

/-- R41: the opcode map, as spec/opcode_table.json has it. -/
def opcodeMap : List OpRow :=
  [ ⟨.ldcal,   .c, 0x01#8, 0xFF#8⟩,
    ⟨.ldraw,   .m, 0x02#8, 0xFF#8⟩,
    ⟨.tcomp,   .n, 0x03#8, 0xFF#8⟩,
    ⟨.pcomp32, .n, 0x04#8, 0xFF#8⟩,
    ⟨.pcomp64, .n, 0x05#8, 0xFF#8⟩,
    ⟨.rdtc,    .x, 0x06#8, 0x0F#8⟩,
    ⟨.rdpc,    .x, 0x07#8, 0x0F#8⟩ ]

/-- R40: field `op` of a command byte. -/
def cmdOp (cmd : Byte) : BitVec 3 := cmd.extractLsb' 0 3

/-- R40: field `rsv` of a command byte. -/
def cmdRsv (cmd : Byte) : BitVec 1 := cmd.extractLsb' 3 1

/-- R40: field `idx` of a command byte. -/
def cmdIdx (cmd : Byte) : BitVec 4 := cmd.extractLsb' 4 4

/-- R40: the command byte with these fields. -/
def cmdByte (idx : BitVec 4) (op : BitVec 3) : Byte := idx ++ 0#1 ++ op

/-- R43: the five cases (a) to (e) in which a command byte is illegal. -/
def cmdIllegal (cmd : Byte) : Bool :=
  let op := (cmdOp cmd).toNat
  let idx := (cmdIdx cmd).toNat
  decide (op = 0)
    || decide (cmdRsv cmd = 1#1)
    || decide (1 ≤ op ∧ op ≤ 5 ∧ idx ≠ 0)
    || decide (op = 6 ∧ ¬(1 ≤ idx ∧ idx ≤ 3))
    || decide (op = 7 ∧ ¬(1 ≤ idx ∧ idx ≤ 9))

/-- R44: the length of a request, from its command byte alone. -/
def requestLength (cmd : Byte) : Nat :=
  if cmd = 0x01#8 then 25 else if cmd = 0x02#8 then 7 else 1

/-- What the decoder reads at the head of a byte string. -/
inductive Decoded where
  /-- A request that selects a row of R41, and the bytes after it. -/
  | instr (i : Instr) (rest : List Byte)
  /-- A command byte that selects no row (R43 a, b, c): a request of length 1 (R44), and the bytes after it. -/
  | illegalOp (cmd : Byte) (rest : List Byte)
  /-- The payload is shorter than the command byte asks for: not a request (R34). -/
  | shortPayload (cmd : Byte)
  /-- No byte at all: not a request (R39). -/
  | noCommand
deriving DecidableEq, Repr

/-- R41: a byte selects the row whose pattern it has under the row's mask. -/
def selectRow (cmd : Byte) : Option OpRow :=
  opcodeMap.find? fun r => decide (cmd &&& r.mask = r.pattern)

/-- The first `n` bytes as an operand buffer, and the bytes after them. -/
def takeBuf (n : Nat) (bytes : List Byte) : Option (Vector Byte n × List Byte) :=
  if h : (bytes.take n).length = n then some (⟨(bytes.take n).toArray, by simpa using h⟩, bytes.drop n)
  else none

/-- R42: the request of a selected row, its operands taken from the command byte and the bytes after it. -/
def decodeOperands (op : Op) (cmd : Byte) (rest : List Byte) : Decoded :=
  match op with
  | .ldcal =>
    match takeBuf 24 rest with
    | some (buf, rest') => .instr (.ldcal buf) rest'
    | none => .shortPayload cmd
  | .ldraw =>
    match takeBuf 6 rest with
    | some (buf, rest') => .instr (.ldraw buf) rest'
    | none => .shortPayload cmd
  | .tcomp => .instr .tcomp rest
  | .pcomp32 => .instr .pcomp32 rest
  | .pcomp64 => .instr .pcomp64 rest
  | .rdtc => .instr (.rdtc (cmdIdx cmd)) rest
  | .rdpc => .instr (.rdpc (cmdIdx cmd)) rest

/-- R44: the decoder. It reads `CMD`, selects the row, then takes the payload; it is total and depends on nothing but the
bytes. An index that R43 (d), (e) call illegal is decoded as the row's request, which is not well formed and whose meaning
raises `IllegalOp` (R65, R66). Mark: DEDUCED, entry 4. -/
def decode : List Byte → Decoded
  | [] => .noCommand
  | cmd :: rest =>
    match selectRow cmd with
    | none => .illegalOp cmd rest
    | some row => decodeOperands row.op cmd rest

/-- R39, R41, R46: the bytes of a request. -/
def encode : Instr → List Byte
  | .ldcal buf => cmdByte 0#4 1#3 :: buf.toList
  | .ldraw buf => cmdByte 0#4 2#3 :: buf.toList
  | .tcomp => [cmdByte 0#4 3#3]
  | .pcomp32 => [cmdByte 0#4 4#3]
  | .pcomp64 => [cmdByte 0#4 5#3]
  | .rdtc idx => [cmdByte idx 6#3]
  | .rdpc idx => [cmdByte idx 7#3]

/-- Byte `k` of a table word `w` of `nbits` bits: bits `8k+7` to `8k`, and 0 above the word. -/
def tableByte (nbits w k : Nat) : Byte := BitVec.ofNat 8 ((w % 2 ^ nbits) / 2 ^ (8 * k))

/-- The request whose bytes are those of a table word, as long as R44 says from its first byte. -/
def tableBytes (nbits w : Nat) : List Byte :=
  (List.range (requestLength (tableByte nbits w 0))).map (tableByte nbits w)

/-- The instruction the decoder reads from a table word; none where it rejects the bytes or some are left over. -/
def decodeTableWord (nbits w : Nat) : Option Instr :=
  match decode (tableBytes nbits w) with
  | .instr i [] => some i
  | .instr _ (_ :: _) => none
  | .illegalOp _ _ => none
  | .shortPayload _ => none
  | .noCommand => none

end Sys2Proof
end

