-- ==== Sys2Proof/Config.lean ====
section
/-! DEFINITION. The parameters of 00_scope R6 that are not plain widths and counts (those are the types of Word.lean), and
the free values: constants with no body, of which nothing can be proved. -/

namespace Sys2Proof

/-- R6, R80: `P32_THRESHOLD`, 2^27, the literal that 90_conflicts C1 and D13 make normative. `fP32` takes the threshold
as an argument, so that a claim can be stated for another literal (U3). Mark: UNVERIFIED, entry 7. -/
def Config.p32Threshold : U32 := 0x8000000#32

/-- FREE VALUE. R53: `divu32(a, 0)` is outside the primitive's domain and "never evaluated": result and flag are
unconstrained. Mark: DESIGN CHOICE, entry 5. -/
opaque Config.divu32ByZero : U32 → U32 × Bool

/-- FREE VALUE. R56: `sdiv64(a, 0)` is outside the primitive's domain and "never evaluated": result and flag are
unconstrained. Mark: DESIGN CHOICE, entry 5. -/
opaque Config.sdiv64ByZero : S64 → S64 × Bool

/-- R6, R114: `LATENCY[op]`, open, by operation code; no rule reads it and neither does the model. Entry 10. -/
opaque Config.latency : BitVec 3 → Nat

/-- R6, R112: `VALID_RANGE`, open: which coefficient tables and raw pairs (pressure, temperature) the source calls valid
sensor ranges; no rule reads it and neither does the model. Entry 10. -/
opaque Config.validRange : Cal → U20 → U20 → Bool

end Sys2Proof
end

