-- ==== Sys2Proof/Machine/State.lean ====
section
/-! DEFINITION. The architectural state of 10_state, as plain data, its reset value, and the names of the reasons a step
can stop. -/

namespace Sys2Proof.Machine

/-- R16: the sample registers `RAW_P` and `RAW_T`, written together and sharing the valid bit `RAW_VALID`. -/
structure RawPair where
  rawP : U20
  rawT : U20
deriving DecidableEq, Repr

/-- R17, R18: `T_FINE` and `T_X100`, written in the same step and sharing the valid bit `T_VALID`. -/
structure TempPair where
  tFine : S32
  tX100 : S32
deriving DecidableEq, Repr

/-- What the host presents to CORE (R103, R105): a request's bytes, or the reset input. -/
inductive HostEvent where
  | request (bytes : List Byte)
  | reset
deriving DecidableEq, Repr

/-- R90: the five faults CORE raises. A fault is a next state (R97), never a stop of the model. -/
inductive FaultCause where
  | illegalOp | calLocked | noCal | noRaw | noFine
deriving DecidableEq, Repr

/-- The state of CORE, and the host's queue. A data register is absent exactly while its valid bit is 0 (R23: a model
represents such a register as an optional value that is absent), so the six valid bits of `STATUS` have no second home:
`statusByte` (Machine/Ops.lean) reads them off. Entry 2. -/
structure State where
  /-- R11: `CAL.W[0..11]`; holds a value while `CAL_VALID` = 1. -/
  cal : Option Cal
  /-- R16: `RAW_P`, `RAW_T`; hold a value while `RAW_VALID` = 1. -/
  raw : Option RawPair
  /-- R17, R18: `T_FINE`, `T_X100`; hold a value while `T_VALID` = 1. -/
  temp : Option TempPair
  /-- R19: `P_PA`; holds a value while `P32_VALID` = 1. -/
  pPa : Option U32
  /-- R20: `P_Q8`; holds a value while `P64_VALID` = 1. -/
  pQ8 : Option U32
  /-- R21: `COEF`; holds a value while `COEF_VALID` = 1. -/
  coef : Option S32
  /-- R22, R24: `STATUS.OVF`, sticky. -/
  ovf : Bool
  /-- R22, R25: `STATUS.ERR`, sticky. -/
  err : Bool
  /-- R25: `ECAUSE`. -/
  ecause : BitVec 3
  /-- The model's own field (R15, R113 allow it; it is the host's and not CORE's): what the host presents next, oldest
  first. Mark: DESIGN CHOICE, entry 1. -/
  port : List HostEvent
deriving DecidableEq, Repr

/-- R26, R105: the state after reset: `STATUS` = 0x00, `ECAUSE` = 0, every data register without a value, nothing
presented by the host. -/
def State.reset : State where
  cal := none
  raw := none
  temp := none
  pPa := none
  pQ8 := none
  coef := none
  ovf := false
  err := false
  ecause := 0#3
  port := []

/-- The reasons a step stops with a fault of the MODEL: there is none. The five faults of R90 are next states (R97), no
access to an address can fail (R34), and nothing else in the spec stops CORE. Entry 13. -/
inductive Fault where
deriving DecidableEq, Repr

/-- The reasons a step is refused. -/
inductive Refusal where
  /-- Raised by an arm of `exec` whose instruction has no meaning yet; no arm does. Safe: the model stops. -/
  | notModelled (mnemonic : String)
  /-- Raised by `performRequest` for a byte string that is no request of this hardware: no command byte, or a payload
  that is not exactly as long as R39 says (R34, U10: "refused at the boundary ... never executed in part"). Safe: the
  model stops where the spec has no behaviour. -/
  | payloadLength
deriving DecidableEq, Repr

end Sys2Proof.Machine
end

