-- ==== Sys2Proof/Machine/Flags.lean ====
section
/-! DEFINITION. The overflow flag: fitting and wrapping (40_arithmetic R49), and evaluations that carry the
operation-local flag `ovf` from one primitive to the next (10_state R24). -/

namespace Sys2Proof.Machine

/-- R49: `x` fits `s_n`. -/
def fitsS (n : Nat) (x : Int) : Bool := decide (-2 ^ (n - 1) ≤ x ∧ x < 2 ^ (n - 1))

/-- R49: `x` fits `u_n`. -/
def fitsU (n : Nat) (x : Int) : Bool := decide (0 ≤ x ∧ x < 2 ^ n)

/-- R24, R49: the outcome of an evaluation: its value, and whether some primitive of it set `ovf`. -/
structure Calc (α : Type) where
  value : α
  ovf : Bool
deriving DecidableEq, Repr

/-- An evaluation of no primitive: R49, "`ovf` is 0 at the start". -/
def noPrimitive {α : Type} (a : α) : Calc α := ⟨a, false⟩

/-- R49, R59: `c` first, then `f` of its value; `ovf` is set when either set it. -/
def Calc.next {α β : Type} (c : Calc α) (f : α → Calc β) : Calc β :=
  ⟨(f c.value).value, c.ovf || (f c.value).ovf⟩

/-- R49 for a signed result type: the wrap of the exact result `x`, and `ovf` set where `x` does not fit. -/
def narrowS (n : Nat) (x : Int) : Calc (BitVec n) := ⟨BitVec.ofInt n x, !fitsS n x⟩

/-- R49 for an unsigned result type. -/
def narrowU (n : Nat) (x : Int) : Calc (BitVec n) := ⟨BitVec.ofInt n x, !fitsU n x⟩

end Sys2Proof.Machine
end

