-- ==== Sys2Proof/Machine/Arith.lean ====
section
/-! DEFINITION. The fixed-width primitives of 40_arithmetic R50 to R57. Each computes one exact integer and narrows it to
its result type by R49. -/

namespace Sys2Proof.Machine

/-- R50. -/
def add32 (a b : S32) : Calc S32 := narrowS 32 (a.toInt + b.toInt)

/-- R50. -/
def sub32 (a b : S32) : Calc S32 := narrowS 32 (a.toInt - b.toInt)

/-- R50. -/
def mul32 (a b : S32) : Calc S32 := narrowS 32 (a.toInt * b.toInt)

/-- R51: a left shift is a multiplication. -/
def shl32 (a : S32) (k : Nat) : Calc S32 := narrowS 32 (a.toInt * 2 ^ k)

/-- R52: the floor of the quotient (the divisor is positive, so `/` on integers is the floor). -/
def asr32 (a : S32) (k : Nat) : Calc S32 := narrowS 32 (a.toInt / 2 ^ k)

/-- R53. -/
def mulu32 (a b : U32) : Calc U32 := narrowU 32 ((a.toNat : Int) * (b.toNat : Int))

/-- R53. -/
def shlu32 (a : U32) (k : Nat) : Calc U32 := narrowU 32 ((a.toNat : Int) * 2 ^ k)

/-- R53: the logical shift. -/
def lsr32 (a : U32) (k : Nat) : Calc U32 := narrowU 32 ((a.toNat : Int) / 2 ^ k)

/-- R53: `floor(a / b)`, for `b` not 0; outside that domain a free value (entry 5). -/
def divu32 (a b : U32) : Calc U32 :=
  if b = 0#32 then ⟨(Config.divu32ByZero a).1, (Config.divu32ByZero a).2⟩
  else narrowU 32 ((a.toNat : Int) / (b.toNat : Int))

/-- R54. -/
def tou32 (a : S32) : Calc U32 := narrowU 32 a.toInt

/-- R54. -/
def tos32 (a : U32) : Calc S32 := narrowS 32 (a.toNat : Int)

/-- R55. -/
def add64 (a b : S64) : Calc S64 := narrowS 64 (a.toInt + b.toInt)

/-- R55. -/
def sub64 (a b : S64) : Calc S64 := narrowS 64 (a.toInt - b.toInt)

/-- R55. -/
def mul64 (a b : S64) : Calc S64 := narrowS 64 (a.toInt * b.toInt)

/-- R55. -/
def shl64 (a : S64) (k : Nat) : Calc S64 := narrowS 64 (a.toInt * 2 ^ k)

/-- R55, R52: the floor of the quotient. -/
def asr64 (a : S64) (k : Nat) : Calc S64 := narrowS 64 (a.toInt / 2 ^ k)

/-- R55: the same number at width 64; it never overflows. -/
def sext64 (a : S32) : S64 := a.signExtend 64

/-- R56: `trunc(a / b)`, toward zero, for `b` not 0; outside that domain a free value (entry 5). -/
def sdiv64 (a b : S64) : Calc S64 :=
  if b = 0#64 then ⟨(Config.sdiv64ByZero a).1, (Config.sdiv64ByZero a).2⟩
  else narrowS 64 (a.toInt.tdiv b.toInt)

/-- R57: used once, to write `P_Q8`. -/
def tou32of64 (a : S64) : Calc U32 := narrowU 32 a.toInt

end Sys2Proof.Machine
end

