-- ==== Sys2Proof/Machine/Operands.lean ====
section
/-! DEFINITION. The operand forms: the coefficients with their signedness (10_state R12, R13; 41_calibration R62, R63;
40_arithmetic R58), the coefficient index of a command byte (R42), and the assembly of the two payloads, `F_PARSE` (R61)
and `F_RAW` (R68). -/

namespace Sys2Proof.Machine

/-- R12: the aliases of the twelve words. -/
inductive Coef where
  | t1 | t2 | t3 | p1 | p2 | p3 | p4 | p5 | p6 | p7 | p8 | p9
deriving DecidableEq, Repr

/-- R12: the word an alias names: `T[i] = CAL.W[i-1]`, `P[i] = CAL.W[2+i]`. -/
def coefIndex : Coef → Fin 12
  | .t1 => 0 | .t2 => 1 | .t3 => 2
  | .p1 => 3 | .p2 => 4 | .p3 => 5 | .p4 => 6 | .p5 => 7 | .p6 => 8 | .p7 => 9 | .p8 => 10 | .p9 => 11

/-- R12, R13: the first word of each group is read unsigned, every other signed. -/
def coefUnsigned : Coef → Bool
  | .t1 => true | .t2 => false | .t3 => false
  | .p1 => true | .p2 => false | .p3 => false | .p4 => false | .p5 => false | .p6 => false | .p7 => false
  | .p8 => false | .p9 => false

/-- R9: the stored 16-bit word of a coefficient. -/
def coefWord (cal : Cal) (c : Coef) : U16 := cal[coefIndex c]

/-- R62, R63: `TC(i)`, `PC(i)`, the coefficient as a number of type `s32`: `zext_32` of the word for index 1 of each
group, `sext_32` of it for every other. -/
def coef32 (cal : Cal) (c : Coef) : S32 :=
  if coefUnsigned c then (coefWord cal c).setWidth 32 else (coefWord cal c).signExtend 32

/-- R63: `PC64(i) = sext64(PC(i))`. -/
def coef64 (cal : Cal) (c : Coef) : S64 := sext64 (coef32 cal c)

/-- R42, R62: the coefficient `idx` names in `RDTC`; none for an index that is not 1..3. -/
def tCoef (idx : BitVec 4) : Option Coef :=
  if idx = 1#4 then some .t1 else if idx = 2#4 then some .t2 else if idx = 3#4 then some .t3 else none

/-- R42, R63: the coefficient `idx` names in `RDPC`; none for an index that is not 1..9. -/
def pCoef (idx : BitVec 4) : Option Coef :=
  if idx = 1#4 then some .p1 else if idx = 2#4 then some .p2 else if idx = 3#4 then some .p3
  else if idx = 4#4 then some .p4 else if idx = 5#4 then some .p5 else if idx = 6#4 then some .p6
  else if idx = 7#4 then some .p7 else if idx = 8#4 then some .p8 else if idx = 9#4 then some .p9 else none

/-- R33(a): a little-endian word, the byte at the lower offset the less significant. -/
def leWord (lo hi : Byte) : U16 := hi ++ lo

/-- R61: `F_PARSE`: word k from bytes 2k and 2k+1. -/
def fParse (b : CalBuf) : Cal := Vector.ofFn fun k => leWord b[2 * k.val] b[2 * k.val + 1]

/-- R33(b), R68: a raw value, most significant byte first, the low four bits of the last byte dropped. -/
def rawValue (msb lsb xlsb : Byte) : U20 :=
  (msb.setWidth 20 <<< 12) ||| (lsb.setWidth 20 <<< 4) ||| (xlsb.setWidth 20 >>> 4)

/-- R68: `F_RAW`: pressure from bytes 0..2, temperature from bytes 3..5. -/
def fRaw (m : MeasBuf) : RawPair where
  rawP := rawValue m[0] m[1] m[2]
  rawT := rawValue m[3] m[4] m[5]

end Sys2Proof.Machine
end

