-- ==== Sys2Proof/Machine/Ops.lean ====
section
/-! DEFINITION. The named operations on the registers: `STATUS` as a byte (10_state R22), fault entry (60_exceptions R97),
the checks of R96, the writes of the operations, and the reset input (70_reset R105), which is the only way out of a
fault: there is no return from one (R98). -/

namespace Sys2Proof.Machine

/-- The bit of a truth value. -/
def flagBit (b : Bool) : BitVec 1 := BitVec.ofBool b

/-- R22: `ERR ++ OVF ++ COEF_VALID ++ P64_VALID ++ P32_VALID ++ T_VALID ++ RAW_VALID ++ CAL_VALID`. -/
def statusByte (s : State) : BitVec 8 :=
  flagBit s.err ++ flagBit s.ovf ++ flagBit s.coef.isSome ++ flagBit s.pQ8.isSome ++ flagBit s.pPa.isSome
    ++ flagBit s.temp.isSome ++ flagBit s.raw.isSome ++ flagBit s.cal.isSome

/-- R90: the cause code of a fault. -/
def faultCode : FaultCause → BitVec 3
  | .illegalOp => 1#3
  | .calLocked => 2#3
  | .noCal => 3#3
  | .noRaw => 4#3
  | .noFine => 5#3

/-- R97: fault entry: `STATUS.ERR <- 1`, `ECAUSE <- c`, and nothing else. -/
def raise (f : FaultCause) (s : State) : State := { s with err := true, ecause := faultCode f }

/-- R96, R98: how a request ends. While `ERR` = 1 it is ignored; else the first check that fails decides and its fault is
entered; else the operation's effect happens. -/
def perform (s : State) (op : Except FaultCause State) : Host.Outcome State Fault Refusal :=
  if s.err then .next s
  else
    match op with
    | .ok t => .next t
    | .error f => .next (raise f s)

/-- R93: the table, or `NoCal`. -/
def needCal (s : State) : Except FaultCause Cal :=
  match s.cal with
  | some cal => .ok cal
  | none => .error .noCal

/-- R94: the sample, or `NoRaw`. -/
def needRaw (s : State) : Except FaultCause RawPair :=
  match s.raw with
  | some raw => .ok raw
  | none => .error .noRaw

/-- R95: the fine temperature of the current sample, or `NoFine`. -/
def needFine (s : State) : Except FaultCause S32 :=
  match s.temp with
  | some temp => .ok temp.tFine
  | none => .error .noFine

/-- R91: the coefficient a legal index names, or `IllegalOp`. -/
def needCoef {α : Type} (c : Option α) : Except FaultCause α :=
  match c with
  | some c => .ok c
  | none => .error .illegalOp

/-- R92: no table may be loaded yet, or `CalLocked`. -/
def needNoCal (s : State) : Except FaultCause Unit :=
  match s.cal with
  | some _ => .error .calLocked
  | none => .ok ()

/-- R14, R64: all twelve words at once; `CAL_VALID` <- 1. -/
def loadCal (cal : Cal) (s : State) : State := { s with cal := some cal }

/-- R69: both raw values at once; `RAW_VALID` <- 1; `T_VALID`, `P32_VALID`, `P64_VALID` <- 0, so that the results of an
earlier sample hold no value. -/
def loadRaw (raw : RawPair) (s : State) : State :=
  { s with raw := some raw, temp := none, pPa := none, pQ8 := none }

/-- R73: `T_FINE` and `T_X100`; `T_VALID` <- 1; `STATUS.OVF <- STATUS.OVF OR ovf` (R24). -/
def writeTemp (temp : TempPair) (ovf : Bool) (s : State) : State :=
  { s with temp := some temp, ovf := s.ovf || ovf }

/-- R81: `P_PA`; `P32_VALID` <- 1; `STATUS.OVF <- STATUS.OVF OR ovf` (R24). -/
def writePPa (p : U32) (ovf : Bool) (s : State) : State := { s with pPa := some p, ovf := s.ovf || ovf }

/-- R87: `P_Q8`; `P64_VALID` <- 1; `STATUS.OVF <- STATUS.OVF OR ovf` (R24). -/
def writePQ8 (p : U32) (ovf : Bool) (s : State) : State := { s with pQ8 := some p, ovf := s.ovf || ovf }

/-- R65, R66: `COEF`; `COEF_VALID` <- 1. -/
def writeCoef (v : S32) (s : State) : State := { s with coef := some v }

/-- What the host presents next. -/
def setPort (port : List HostEvent) (s : State) : State := { s with port := port }

/-- R105: the reset input: every register of CORE as R26 says. What the host has still to present is not CORE's state and
stays (entry 1). -/
def assertReset (s : State) : State := { State.reset with port := s.port }

end Sys2Proof.Machine
end

