-- ==== Sys2Proof/Machine/Calibration.lean ====
section
/-! DEFINITION. The calibration family: `LDCAL`, `RDTC`, `RDPC` (41_calibration R64 to R66). -/

namespace Sys2Proof.Machine

/-- R64. -/
def execLdcal (buf : CalBuf) (s : State) : Host.Outcome State Fault Refusal :=
  perform s do
    needNoCal s
    return loadCal (fParse buf) s

/-- R65. -/
def execRdtc (idx : BitVec 4) (s : State) : Host.Outcome State Fault Refusal :=
  perform s do
    let c ← needCoef (tCoef idx)
    let cal ← needCal s
    return writeCoef (coef32 cal c) s

/-- R66. -/
def execRdpc (idx : BitVec 4) (s : State) : Host.Outcome State Fault Refusal :=
  perform s do
    let c ← needCoef (pCoef idx)
    let cal ← needCal s
    return writeCoef (coef32 cal c) s

end Sys2Proof.Machine
end

