-- ==== Sys2Proof/Machine/Pressure32.lean ====
section
/-! DEFINITION. The pressure stage, 32-bit variant: `F_P32`, `PCOMP32` (44_pressure32 R77 to R81). Names are the rule's.
R78's body is cut into the part up to the denominator, the division branch and the part after it; the primitives and
their order are the rule's. Mark of the body: UNVERIFIED, entry 7. -/

namespace Sys2Proof.Machine

/-- R78 up to the denominator: `(v2c, v1c)`. -/
def p32Denominator (fine : S32) (cal : Cal) : Calc (S32 × S32) :=
  (asr32 fine 1).next fun fineHalf =>
  (sub32 fineHalf 64000#32).next fun v1a =>
  (asr32 v1a 2).next fun q =>
  (mul32 q q).next fun qq =>
  (asr32 qq 11).next fun qq11 =>
  (mul32 qq11 (coef32 cal .p6)).next fun v2a =>
  (mul32 v1a (coef32 cal .p5)).next fun t5a =>
  (shl32 t5a 1).next fun t5 =>
  (add32 v2a t5).next fun v2b =>
  (asr32 v2b 2).next fun v2b2 =>
  (shl32 (coef32 cal .p4) 16).next fun p4 =>
  (add32 v2b2 p4).next fun v2c =>
  (asr32 qq 13).next fun qq13 =>
  (mul32 (coef32 cal .p3) qq13).next fun h =>
  (mul32 (coef32 cal .p2) v1a).next fun i =>
  (asr32 h 3).next fun h3 =>
  (asr32 i 1).next fun i1 =>
  (add32 h3 i1).next fun j =>
  (asr32 j 18).next fun v1b =>
  (add32 32768#32 v1b).next fun w =>
  (mul32 w (coef32 cal .p1)).next fun k =>
  (asr32 k 15).next fun v1c =>
  noPrimitive (v2c, v1c)

/-- R80: the magnitude-threshold branch, an unsigned test against `thr`: double then divide below it, divide then double
from it on. -/
def p32Quotient (thr p1 dv : U32) : Calc U32 :=
  if p1 < thr then
    (shlu32 p1 1).next fun twice =>
    divu32 twice dv
  else
    (divu32 p1 dv).next fun quot =>
    mulu32 quot 2#32

/-- R78 from `p0` on, for a nonzero denominator. -/
def p32Result (thr : U32) (rawP : U20) (v2c v1c : S32) (cal : Cal) : Calc U32 :=
  (sub32 1048576#32 (rawP.setWidth 32)).next fun base =>
  (asr32 v2c 12).next fun v2c12 =>
  (sub32 base v2c12).next fun diff =>
  (tou32 diff).next fun p0 =>
  (mulu32 p0 3125#32).next fun p1 =>
  (tou32 v1c).next fun dv =>
  (p32Quotient thr p1 dv).next fun p2 =>
  (lsr32 p2 3).next fun t =>
  (mulu32 t t).next fun tt =>
  (lsr32 tt 13).next fun tt13 =>
  (tos32 tt13).next fun tt13s =>
  (mul32 (coef32 cal .p9) tt13s).next fun p9tt =>
  (asr32 p9tt 12).next fun v1d =>
  (lsr32 p2 2).next fun p2q =>
  (tos32 p2q).next fun p2qs =>
  (mul32 p2qs (coef32 cal .p8)).next fun p2p8 =>
  (asr32 p2p8 13).next fun v2d =>
  (add32 v1d v2d).next fun vd =>
  (add32 vd (coef32 cal .p7)).next fun s =>
  (tos32 p2).next fun p2s =>
  (asr32 s 4).next fun s4 =>
  (add32 p2s s4).next fun res =>
  tou32 res

/-- R78, R79: `F_P32(raw_p, fine, CAL)`, with the threshold as a parameter (R6, U3): 0 at once when the denominator is
zero, `ovf` set before that staying set. -/
def fP32 (thr : U32) (rawP : U20) (fine : S32) (cal : Cal) : Calc U32 :=
  (p32Denominator fine cal).next fun v =>
  if v.2 = 0#32 then noPrimitive 0#32
  else p32Result thr rawP v.1 v.2 cal

/-- R81. -/
def execPcomp32 (s : State) : Host.Outcome State Fault Refusal :=
  perform s do
    let cal ← needCal s
    let raw ← needRaw s
    let fine ← needFine s
    let r := fP32 Config.p32Threshold raw.rawP fine cal
    return writePPa r.value r.ovf s

end Sys2Proof.Machine
end

