-- ==== Sys2Proof/Machine/Pressure64.lean ====
section
/-! DEFINITION. The pressure stage, 64-bit variant: `F_P64`, `PCOMP64` (45_pressure64 R83 to R87). Names are the rule's.
R84's body is cut after `v1b` and at the denominator; the primitives and their order are the rule's. Mark of the body:
UNVERIFIED, entry 7. -/

namespace Sys2Proof.Machine

/-- R84 up to `v1b`, which is all that R88(b) speaks of: `(v2c, v1b)`. -/
def p64Terms (fine : S32) (cal : Cal) : Calc (S64 × S64) :=
  (sub64 (sext64 fine) 128000#64).next fun v1a =>
  (mul64 v1a v1a).next fun sq =>
  (mul64 sq (coef64 cal .p6)).next fun v2a =>
  (mul64 v1a (coef64 cal .p5)).next fun t5a =>
  (shl64 t5a 17).next fun t5 =>
  (add64 v2a t5).next fun v2b =>
  (shl64 (coef64 cal .p4) 35).next fun p4 =>
  (add64 v2b p4).next fun v2c =>
  (mul64 sq (coef64 cal .p3)).next fun sq3 =>
  (asr64 sq3 8).next fun sq8 =>
  (mul64 v1a (coef64 cal .p2)).next fun lin =>
  (shl64 lin 12).next fun lin12 =>
  (add64 sq8 lin12).next fun v1b =>
  noPrimitive (v2c, v1b)

/-- R84 up to the denominator: `(v2c, v1c)`. -/
def p64Denominator (fine : S32) (cal : Cal) : Calc (S64 × S64) :=
  (p64Terms fine cal).next fun v =>
  (add64 140737488355328#64 v.2).next fun w =>
  (mul64 w (coef64 cal .p1)).next fun k =>
  (asr64 k 33).next fun v1c =>
  noPrimitive (v.1, v1c)

/-- R84 from `p0` on, for a nonzero denominator. -/
def p64Result (rawP : U20) (v2c v1c : S64) (cal : Cal) : Calc U32 :=
  (sub64 1048576#64 (rawP.setWidth 64)).next fun p0 =>
  (shl64 p0 31).next fun p0s =>
  (sub64 p0s v2c).next fun diff =>
  (mul64 diff 3125#64).next fun n =>
  (sdiv64 n v1c).next fun p1 =>
  (asr64 p1 13).next fun r =>
  (mul64 (coef64 cal .p9) r).next fun p9r =>
  (mul64 p9r r).next fun p9rr =>
  (asr64 p9rr 25).next fun v1d =>
  (mul64 (coef64 cal .p8) p1).next fun p8p1 =>
  (asr64 p8p1 19).next fun v2d =>
  (add64 p1 v1d).next fun s1 =>
  (add64 s1 v2d).next fun s2 =>
  (asr64 s2 8).next fun s8 =>
  (shl64 (coef64 cal .p7) 4).next fun p7 =>
  (add64 s8 p7).next fun p2 =>
  tou32of64 p2

/-- R84, R85: `F_P64(raw_p, fine, CAL)`: 0 at once when the denominator is zero, `ovf` set before that staying set. -/
def fP64 (rawP : U20) (fine : S32) (cal : Cal) : Calc U32 :=
  (p64Denominator fine cal).next fun v =>
  if v.2 = 0#64 then noPrimitive 0#32
  else p64Result rawP v.1 v.2 cal

/-- R87. -/
def execPcomp64 (s : State) : Host.Outcome State Fault Refusal :=
  perform s do
    let cal ← needCal s
    let raw ← needRaw s
    let fine ← needFine s
    let r := fP64 raw.rawP fine cal
    return writePQ8 r.value r.ovf s

end Sys2Proof.Machine
end

