-- ==== Sys2Proof/Machine/RawDecode.lean ====
section
/-! DEFINITION. The raw measurement family: `LDRAW` (42_raw_decode R69). -/

namespace Sys2Proof.Machine

/-- R69: `LDRAW` has no prerequisite. -/
def execLdraw (buf : MeasBuf) (s : State) : Host.Outcome State Fault Refusal :=
  perform s (.ok (loadRaw (fRaw buf) s))

end Sys2Proof.Machine
end

