-- ==== Sys2Proof/Machine/Temperature.lean ====
section
/-! DEFINITION. The temperature stage: `F_TFINE`, `F_TX100`, `TCOMP` (43_temperature R71 to R73). Names are the rule's. -/

namespace Sys2Proof.Machine

/-- R71: `F_TFINE(raw_t, CAL)`. -/
def fTfine (rawT : U20) (cal : Cal) : Calc S32 :=
  let raw : S32 := rawT.setWidth 32
  (asr32 raw 3).next fun a =>
  (shl32 (coef32 cal .t1) 1).next fun b =>
  (sub32 a b).next fun x =>
  (mul32 x (coef32 cal .t2)).next fun m =>
  (asr32 m 11).next fun var1 =>
  (asr32 raw 4).next fun c =>
  (sub32 c (coef32 cal .t1)).next fun d =>
  (mul32 d d).next fun dd =>
  (asr32 dd 12).next fun e =>
  (mul32 e (coef32 cal .t3)).next fun g =>
  (asr32 g 14).next fun var2 =>
  add32 var1 var2

/-- R72: `F_TX100(fine)`. -/
def fTx100 (fine : S32) : Calc S32 :=
  (mul32 fine 5#32).next fun five =>
  (add32 five 128#32).next fun half =>
  asr32 half 8

/-- R73: both functions, in this order, under one flag. -/
def temperature (rawT : U20) (cal : Cal) : Calc TempPair :=
  (fTfine rawT cal).next fun fine =>
  (fTx100 fine).next fun x100 =>
  noPrimitive { tFine := fine, tX100 := x100 }

/-- R73. -/
def execTcomp (s : State) : Host.Outcome State Fault Refusal :=
  perform s do
    let cal ← needCal s
    let raw ← needRaw s
    let r := temperature raw.rawT cal
    return writeTemp r.value r.ovf s

end Sys2Proof.Machine
end

