-- ==== Sys2Proof/Machine/Dispatch.lean ====
section
/-! DEFINITION. The meaning of each instruction, one arm per constructor of `Instr`. -/

namespace Sys2Proof.Machine

def exec (i : Instr) (s : State) : Host.Outcome State Fault Refusal :=
  match i with
  | .ldcal buf => Sys2Proof.Machine.execLdcal buf s
  | .ldraw buf => Sys2Proof.Machine.execLdraw buf s
  | .tcomp => Sys2Proof.Machine.execTcomp s
  | .pcomp32 => Sys2Proof.Machine.execPcomp32 s
  | .pcomp64 => Sys2Proof.Machine.execPcomp64 s
  | .rdtc idx => Sys2Proof.Machine.execRdtc idx s
  | .rdpc idx => Sys2Proof.Machine.execRdpc idx s

end Sys2Proof.Machine
end

