-- ==== Sys2Proof/Machine/Request.lean ====
section
/-! DEFINITION. One request or reset input taken from the host: the boundary check of 20_memory R34, the illegal command
bytes of 30_encoding R43, and the request put to `exec`. -/

namespace Sys2Proof.Machine

/-- R43, R91, R98: a request whose command byte selects no row: ignored while `ERR` = 1, else `IllegalOp`. -/
def illegalRequest (s : State) : Host.Outcome State Fault Refusal := perform s (.error .illegalOp)

/-- R34, R39, R44: one request, given as its bytes. A byte string that is not exactly one request is refused. -/
def performRequest (bytes : List Byte) (s : State) : Host.Outcome State Fault Refusal :=
  match decode bytes with
  | .instr i [] => exec i s
  | .illegalOp _ [] => illegalRequest s
  | .instr _ (_ :: _) => .refused .payloadLength
  | .illegalOp _ (_ :: _) => .refused .payloadLength
  | .shortPayload _ => .refused .payloadLength
  | .noCommand => .refused .payloadLength

/-- R36, R113, R115: the next event the host presents is taken and performed completely. With nothing presented CORE
does nothing (entry 3). -/
def takeEvent (s : State) : Host.Outcome State Fault Refusal :=
  match s.port with
  | [] => .next s
  | .reset :: port => .next (assertReset (setPort port s))
  | .request bytes :: port => performRequest bytes (setPort port s)

/-- The host presents the request of a table word before anything else it has to present. -/
def presentTableWord (s : State) (nbits w : Nat) : State := setPort (.request (tableBytes nbits w) :: s.port) s

end Sys2Proof.Machine
end

