-- ==== Sys2Proof/Machine/Step.lean ====
section
/-! DEFINITION. One step of the machine. There is no program counter (10_state R15): the request performed next is the
one the host presents next. -/

namespace Sys2Proof.Machine

/-- R5, R36: one step performs one request, or takes one reset input. -/
def step (s : State) : Host.Outcome State Fault Refusal := takeEvent s

/-- The state in which the very next step performs the request of the table word `w`. How a program comes to run: entry 1. -/
def State.withFetchWord (s : State) (nbits w : Nat) : State := presentTableWord s nbits w

end Sys2Proof.Machine
end

