-- ==== Sys2Proof/Machine/Assembler.lean ====
section
/-! DEFINITION. The listing notation of 30_encoding R46 and the pseudo-instructions of R47: what each line presents to
CORE, how it is written, and what a written line says (entry 14). -/

namespace Sys2Proof.Machine

/-- R46: one line of a listing. -/
inductive SourceLine where
  /-- A mnemonic with its operands. -/
  | op (i : Instr)
  /-- `RESET`: not a request; asserts the reset input. -/
  | reset
  /-- `.byte bb`: a raw command byte. -/
  | rawByte (b : Byte)
deriving DecidableEq, Repr

/-- R46, the encoding column: what a line presents to CORE. -/
def assembleLine : SourceLine → HostEvent
  | .op i => .request (encode i)
  | .reset => .reset
  | .rawByte b => .request [b]

/-- R47: the pseudo-instructions. -/
inductive Pseudo where
  | sample32 (m : MeasBuf)
  | sample64 (m : MeasBuf)
  | sample (m : MeasBuf)
  | dumpcal
deriving DecidableEq, Repr

/-- R47: the expansions. -/
def expandPseudo : Pseudo → List Instr
  | .sample32 m => [.ldraw m, .tcomp, .pcomp32]
  | .sample64 m => [.ldraw m, .tcomp, .pcomp64]
  | .sample m => [.ldraw m, .tcomp, .pcomp32, .pcomp64]
  | .dumpcal =>
    [.rdtc 1, .rdtc 2, .rdtc 3, .rdpc 1, .rdpc 2, .rdpc 3, .rdpc 4, .rdpc 5, .rdpc 6, .rdpc 7, .rdpc 8, .rdpc 9]

/-- R46: a hexadecimal digit. -/
def hexDigit (n : Nat) : Char :=
  match n with
  | 0 => '0' | 1 => '1' | 2 => '2' | 3 => '3' | 4 => '4' | 5 => '5' | 6 => '6' | 7 => '7'
  | 8 => '8' | 9 => '9' | 10 => 'A' | 11 => 'B' | 12 => 'C' | 13 => 'D' | 14 => 'E' | _ => 'F'

/-- R46: a byte, two hexadecimal digits without prefix. -/
def hexByte (b : Byte) : List Char := [hexDigit (b.toNat / 16), hexDigit (b.toNat % 16)]

/-- R46: an index, decimal (it has at most two digits). -/
def decimalIdx (idx : BitVec 4) : List Char :=
  if idx.toNat < 10 then [hexDigit idx.toNat] else ['1', hexDigit (idx.toNat - 10)]

/-- R46: operands separated by spaces. -/
def hexOperands (bytes : List Byte) : List Char := bytes.flatMap fun b => ' ' :: hexByte b

/-- R46, the syntax column: how a line is written. -/
def lineText : SourceLine → List Char
  | .op (.ldcal buf) => ['L', 'D', 'C', 'A', 'L'] ++ hexOperands buf.toList
  | .op (.ldraw buf) => ['L', 'D', 'R', 'A', 'W'] ++ hexOperands buf.toList
  | .op .tcomp => ['T', 'C', 'O', 'M', 'P']
  | .op .pcomp32 => ['P', 'C', 'O', 'M', 'P', '3', '2']
  | .op .pcomp64 => ['P', 'C', 'O', 'M', 'P', '6', '4']
  | .op (.rdtc idx) => ['R', 'D', 'T', 'C', ' '] ++ decimalIdx idx
  | .op (.rdpc idx) => ['R', 'D', 'P', 'C', ' '] ++ decimalIdx idx
  | .reset => ['R', 'E', 'S', 'E', 'T']
  | .rawByte b => ['.', 'b', 'y', 't', 'e', ' '] ++ hexByte b

/-- R46: `;` starts a comment. -/
def beforeComment (line : List Char) : List Char := line.takeWhile fun c => c != ';'

/-- R46: the mnemonic and the operands of a line, separated by spaces; `word` is the word begun. -/
def lineWords (word : List Char) : List Char → List (List Char)
  | [] => if word = [] then [] else [word]
  | c :: rest =>
    if c = ' ' then (if word = [] then lineWords [] rest else word :: lineWords [] rest)
    else lineWords (word ++ [c]) rest

/-- R46: the value of a hexadecimal digit. -/
def hexValue (c : Char) : Option Nat :=
  if 48 ≤ c.toNat ∧ c.toNat ≤ 57 then some (c.toNat - 48)
  else if 65 ≤ c.toNat ∧ c.toNat ≤ 70 then some (c.toNat - 55)
  else if 97 ≤ c.toNat ∧ c.toNat ≤ 102 then some (c.toNat - 87)
  else none

/-- R46: a byte, two hexadecimal digits without prefix. -/
def readByte : List Char → Option Byte
  | [hi, lo] =>
    match hexValue hi, hexValue lo with
    | some h, some l => some (BitVec.ofNat 8 (16 * h + l))
    | _, _ => none
  | _ => none

/-- R46: as many bytes as the operation takes. -/
def readBuf (n : Nat) (words : List (List Char)) : Option (Vector Byte n) :=
  match words.mapM readByte with
  | none => none
  | some bytes =>
    match takeBuf n bytes with
    | some (buf, []) => some buf
    | _ => none

/-- R46: an index, decimal; the legal ones have one digit. -/
def readIdx : List Char → Option (BitVec 4)
  | [c] => if 49 ≤ c.toNat ∧ c.toNat ≤ 57 then some (BitVec.ofNat 4 (c.toNat - 48)) else none
  | _ => none

/-- A line that is one operation, where it is a legal one (R46 writes any other as `.byte`). -/
def operationLine (i : Instr) : Option (List SourceLine) :=
  if i.wellFormed then some [.op i] else none

/-- R47: a line that is a pseudo-instruction. -/
def pseudoLine (p : Pseudo) : List SourceLine := (expandPseudo p).map .op

/-- R46, R47: what a written line says; none where it says nothing of this notation. A line of spaces and a comment is
empty. -/
def readLine (line : List Char) : Option (List SourceLine) :=
  match lineWords [] (beforeComment line) with
  | [] => some []
  | mnemonic :: operands =>
    if mnemonic = ['L', 'D', 'C', 'A', 'L'] then
      (readBuf 24 operands).bind fun buf => operationLine (.ldcal buf)
    else if mnemonic = ['L', 'D', 'R', 'A', 'W'] then
      (readBuf 6 operands).bind fun buf => operationLine (.ldraw buf)
    else if mnemonic = ['S', 'A', 'M', 'P', 'L', 'E', '3', '2'] then
      (readBuf 6 operands).map fun buf => pseudoLine (.sample32 buf)
    else if mnemonic = ['S', 'A', 'M', 'P', 'L', 'E', '6', '4'] then
      (readBuf 6 operands).map fun buf => pseudoLine (.sample64 buf)
    else if mnemonic = ['S', 'A', 'M', 'P', 'L', 'E'] then
      (readBuf 6 operands).map fun buf => pseudoLine (.sample buf)
    else
      match operands with
      | [] =>
        if mnemonic = ['T', 'C', 'O', 'M', 'P'] then operationLine .tcomp
        else if mnemonic = ['P', 'C', 'O', 'M', 'P', '3', '2'] then operationLine .pcomp32
        else if mnemonic = ['P', 'C', 'O', 'M', 'P', '6', '4'] then operationLine .pcomp64
        else if mnemonic = ['D', 'U', 'M', 'P', 'C', 'A', 'L'] then some (pseudoLine .dumpcal)
        else if mnemonic = ['R', 'E', 'S', 'E', 'T'] then some [.reset]
        else none
      | [operand] =>
        if mnemonic = ['R', 'D', 'T', 'C'] then (readIdx operand).bind fun idx => operationLine (.rdtc idx)
        else if mnemonic = ['R', 'D', 'P', 'C'] then (readIdx operand).bind fun idx => operationLine (.rdpc idx)
        else if mnemonic = ['.', 'b', 'y', 't', 'e'] then (readByte operand).map fun b => [.rawByte b]
        else none
      | _ :: _ :: _ => none

/-- R46, R113: what a listing presents to CORE, in order; none where some line says nothing of this notation. -/
def assemble (listing : List (List Char)) : Option (List HostEvent) :=
  (listing.mapM readLine).map fun lines => lines.flatten.map assembleLine

end Sys2Proof.Machine
end

