-- ==== Sys2Proof/Machine/HostView.lean ====
section
/-! DEFINITION. What the host sees and computes between requests: register reads (60_exceptions R103), whole degrees
(43_temperature R74), whole Pascals (45_pressure64 R86), the sentinel (70_reset R110). A read is a function of the state:
it has no side effect (20_memory R35). -/

namespace Sys2Proof.Machine

/-- R22, R25, R11, R16 to R21: the registers the host can read. -/
inductive HostReg where
  | status | ecause
  | calW (k : Fin 12)
  | rawP | rawT | tFine | tX100 | pPa | pQ8 | coef
deriving DecidableEq, Repr

/-- R23, R103: what a host read returns: the number the register's type gives its content, and nothing for a register
whose valid bit is 0. `STATUS` and `ECAUSE` can be read at any time. Entry 6. -/
def hostRead (r : HostReg) (s : State) : Option Int :=
  match r with
  | .status => some ((statusByte s).toNat : Int)
  | .ecause => some (s.ecause.toNat : Int)
  | .calW k => s.cal.map fun c => ((c.get k).toNat : Int)
  | .rawP => s.raw.map fun p => (p.rawP.toNat : Int)
  | .rawT => s.raw.map fun p => (p.rawT.toNat : Int)
  | .tFine => s.temp.map fun t => t.tFine.toInt
  | .tX100 => s.temp.map fun t => t.tX100.toInt
  | .pPa => s.pPa.map fun p => (p.toNat : Int)
  | .pQ8 => s.pQ8.map fun p => (p.toNat : Int)
  | .coef => s.coef.map fun c => c.toInt

/-- R74: `TDEG = trunc(T_X100 / 100)`, toward zero; the host's arithmetic, not CORE's. -/
def tdeg (tX100 : S32) : Int := tX100.toInt.tdiv 100

/-- R86: whole Pascals, `floor(P_Q8 / 256) = P_Q8 >> 8`. -/
def pQ8Whole (p : U32) : Nat := p.toNat / 256

/-- R86: the fraction in 1/256 Pascal, `P_Q8[7:0]`. -/
def pQ8Fraction (p : U32) : Nat := p.toNat % 256

/-- R110: a pressure of 0 means "not computable"; the test is on the whole register. -/
def isSentinel (p : U32) : Bool := decide (p = 0#32)

end Sys2Proof.Machine
end

