-- ==== Sys2Proof/Safety.lean ====
section
/-! DEFINITION. Runs, good final states and believable results (70_reset R112, R113), the states reachable from reset, and
the invariants of 10_state R28, in the terms claims use. -/

namespace Sys2Proof.Safety

open Sys2Proof.Machine

/-- R113: a run performs a finite list of host events from the reset state in list order. -/
def start (events : List HostEvent) : State := setPort events State.reset

/-- R113: the states a run passes through, from the reset state with any list of events presented. -/
inductive Reachable : State → Prop where
  | start (events : List HostEvent) : Reachable (Safety.start events)
  | step {s t : State} : Reachable s → Machine.step s = .next t → Reachable t

/-- R113: `n` host events performed one after the other; a byte string that is no request stops the model (entry 12). -/
def performEvents : Nat → State → Host.Outcome State Fault Refusal
  | 0, s => .next s
  | n + 1, s =>
    match Machine.step s with
    | .next t => performEvents n t
    | .fault r => .fault r
    | .refused r => .refused r

/-- R113: the run of a list of host events: all of it, from the reset state, in list order, a step for each event. Its
answer is the final state. -/
def run (events : List HostEvent) : Host.Outcome State Fault Refusal := performEvents events.length (start events)

/-- R113: the run is over, because its list is exhausted; CORE has no halt operation. -/
def Final (s : State) : Prop := s.port = []

/-- R113: a final state is good when `STATUS.ERR` = 0. -/
def GoodFinal (s : State) : Prop := Final s ∧ s.err = false

/-- R113: a run that ends with `ERR` = 1 has faulted. -/
def FaultedFinal (s : State) : Prop := Final s ∧ s.err = true

/-- R112, R113: a result is believed only with `ERR` = 0, `OVF` = 0 and its register holding a value; a claim about the
results of a run asks it of the final state. -/
def Believable (s : State) (r : HostReg) : Prop :=
  s.err = false ∧ s.ovf = false ∧ (hostRead r s).isSome

/-- R28(a): `T_VALID` = 1 implies `CAL_VALID` = 1 and `RAW_VALID` = 1. -/
def TempHasOperands (s : State) : Prop := s.temp.isSome → s.cal.isSome ∧ s.raw.isSome

/-- R28(b): `P32_VALID` = 1 or `P64_VALID` = 1 implies `T_VALID` = 1. -/
def PressureHasTemp (s : State) : Prop := s.pPa.isSome ∨ s.pQ8.isSome → s.temp.isSome

/-- R28(c): `COEF_VALID` = 1 implies `CAL_VALID` = 1. -/
def CoefHasCal (s : State) : Prop := s.coef.isSome → s.cal.isSome

/-- R28(d), R25, U13: `ERR` = 1 exactly when `ECAUSE` is in 1..5, and `ECAUSE` = 0 exactly when `ERR` = 0. -/
def CauseMatchesErr (s : State) : Prop :=
  (s.err = true ↔ 1 ≤ s.ecause.toNat ∧ s.ecause.toNat ≤ 5) ∧ (s.err = false ↔ s.ecause = 0#3)

/-- R28(e): every valid result belongs to the current sample and the current coefficients. -/
def ResultsCurrent (s : State) : Prop :=
  ∀ t, s.temp = some t → ∃ cal raw, s.cal = some cal ∧ s.raw = some raw ∧
    t.tFine = (fTfine raw.rawT cal).value ∧
    t.tX100 = (fTx100 t.tFine).value ∧
    (∀ p, s.pPa = some p → p = (fP32 Config.p32Threshold raw.rawP t.tFine cal).value) ∧
    (∀ p, s.pQ8 = some p → p = (fP64 raw.rawP t.tFine cal).value)

/-- R28 (a) to (e) together. -/
def Consistent (s : State) : Prop :=
  TempHasOperands s ∧ PressureHasTemp s ∧ CoefHasCal s ∧ CauseMatchesErr s ∧ ResultsCurrent s

end Sys2Proof.Safety
end

