-- ==== Sys2Proof/Certificates/Slice0/Obligations.lean ====
section
/-! DEFINITION. The statements for the provers. Each docstring names the rules it formalises. -/

namespace Sys2Proof.Claims

open Sys2Proof.Machine Sys2Proof.Safety

/-- R12, R13: the number of coefficient word `k`: words 0 (T1) and 3 (P1) unsigned, every other signed. -/
def coefNumber (cal : Cal) (k : Fin 12) : Int :=
  if k = 0 ∨ k = 3 then ((cal.get k).toNat : Int) else (cal.get k).toInt

/-- R12: the number of `P[i]`, word `2 + i`. -/
def pNumber (cal : Cal) (i : Nat) : Int := coefNumber cal (Fin.ofNat 12 (2 + i))

/-- R71, the formula over the mathematical integers (R60 e): `/` by a positive number is the floor. -/
def tfineExact (raw : Int) (cal : Cal) : Int :=
  let t1 := coefNumber cal 0
  let t2 := coefNumber cal 1
  let t3 := coefNumber cal 2
  (raw / 2 ^ 3 - t1 * 2) * t2 / 2 ^ 11 + (raw / 2 ^ 4 - t1) ^ 2 / 2 ^ 12 * t3 / 2 ^ 14

/-- R78, R79, R80, the formula over the mathematical integers (R60 e). -/
def p32Exact (thr rawP fine : Int) (cal : Cal) : Int :=
  let v1a := fine / 2 - 64000
  let sq := (v1a / 4) ^ 2
  let v2c := (sq / 2 ^ 11 * pNumber cal 6 + v1a * pNumber cal 5 * 2) / 4 + pNumber cal 4 * 2 ^ 16
  let v1b := (pNumber cal 3 * (sq / 2 ^ 13) / 2 ^ 3 + pNumber cal 2 * v1a / 2) / 2 ^ 18
  let v1c := (32768 + v1b) * pNumber cal 1 / 2 ^ 15
  if v1c = 0 then 0
  else
    let p1 := (1048576 - rawP - v2c / 2 ^ 12) * 3125
    let p2 := if p1 < thr then p1 * 2 / v1c else p1 / v1c * 2
    let v1d := pNumber cal 9 * ((p2 / 2 ^ 3) ^ 2 / 2 ^ 13) / 2 ^ 12
    let v2d := p2 / 2 ^ 2 * pNumber cal 8 / 2 ^ 13
    p2 + (v1d + v2d + pNumber cal 7) / 2 ^ 4

/-- R84, R85, the formula over the mathematical integers (R60 e), the one division truncating toward zero. -/
def p64Exact (rawP fine : Int) (cal : Cal) : Int :=
  let v1a := fine - 128000
  let sq := v1a ^ 2
  let v2c := sq * pNumber cal 6 + v1a * pNumber cal 5 * 2 ^ 17 + pNumber cal 4 * 2 ^ 35
  let v1b := sq * pNumber cal 3 / 2 ^ 8 + v1a * pNumber cal 2 * 2 ^ 12
  let v1c := (2 ^ 47 + v1b) * pNumber cal 1 / 2 ^ 33
  if v1c = 0 then 0
  else
    let p1 := (((1048576 - rawP) * 2 ^ 31 - v2c) * 3125).tdiv v1c
    let r := p1 / 2 ^ 13
    let v1d := pNumber cal 9 * r * r / 2 ^ 25
    let v2d := pNumber cal 8 * p1 / 2 ^ 19
    (p1 + v1d + v2d) / 2 ^ 8 + pNumber cal 7 * 2 ^ 4

/-- R49 for a signed result: where the exact result `e` fits, it is returned and `ovf` is not set; where it does not, `ovf`
is set and the result is the value of the type congruent to `e`. -/
def NarrowsSigned (n : Nat) (c : Calc (BitVec n)) (e : Int) : Prop :=
  (-2 ^ (n - 1) ≤ e ∧ e < 2 ^ (n - 1) → c.value.toInt = e ∧ c.ovf = false) ∧
  (¬(-2 ^ (n - 1) ≤ e ∧ e < 2 ^ (n - 1)) → (2 ^ n : Int) ∣ c.value.toInt - e ∧ c.ovf = true)

/-- R49 for an unsigned result. -/
def NarrowsUnsigned (n : Nat) (c : Calc (BitVec n)) (e : Int) : Prop :=
  (0 ≤ e ∧ e < 2 ^ n → (c.value.toNat : Int) = e ∧ c.ovf = false) ∧
  (¬(0 ≤ e ∧ e < 2 ^ n) → (2 ^ n : Int) ∣ (c.value.toNat : Int) - e ∧ c.ovf = true)

/-- R43: the 17 legal command bytes. -/
def legalBytes : List Byte :=
  [0x01, 0x02, 0x03, 0x04, 0x05, 0x16, 0x26, 0x36, 0x17, 0x27, 0x37, 0x47, 0x57, 0x67, 0x77, 0x87, 0x97]

/-- R96, items 2 to 5: the first check that fails for a request of `i`, while `ERR` = 0. -/
def firstFault (i : Instr) (s : State) : Option FaultCause :=
  if i.wellFormed = false then some .illegalOp
  else
    match i with
    | .ldcal _ => if s.cal.isSome then some .calLocked else none
    | .ldraw _ => none
    | .tcomp => if s.cal.isNone then some .noCal else if s.raw.isNone then some .noRaw else none
    | .pcomp32 =>
      if s.cal.isNone then some .noCal else if s.raw.isNone then some .noRaw
      else if s.temp.isNone then some .noFine else none
    | .pcomp64 =>
      if s.cal.isNone then some .noCal else if s.raw.isNone then some .noRaw
      else if s.temp.isNone then some .noFine else none
    | .rdtc _ => if s.cal.isNone then some .noCal else none
    | .rdpc _ => if s.cal.isNone then some .noCal else none

/-- R96, items 2 to 5, for what the host presents: the first check that fails for the request the bytes are, while `ERR`
= 0. A byte string that is no request fails no check: it is refused (entry 12). -/
def requestFault (bytes : List Byte) (s : State) : Option FaultCause :=
  match decode bytes with
  | .instr i [] => firstFault i s
  | .illegalOp _ [] => some .illegalOp
  | .instr _ (_ :: _) => none
  | .illegalOp _ (_ :: _) => none
  | .shortPayload _ => none
  | .noCommand => none

/-- R34, R113: every byte string in a list of host events is exactly one request. -/
def AllRequestsProper (events : List HostEvent) : Prop :=
  ∀ bytes, HostEvent.request bytes ∈ events → ∃ cmd payload, bytes = cmd :: payload ∧ bytes.length = requestLength cmd

/-- R22: the number of the bit of `STATUS` that says whether a register holds a value; none for the two registers that
always do. -/
def validBit : HostReg → Option Nat
  | .status => none
  | .ecause => none
  | .calW _ => some 0
  | .rawP => some 1
  | .rawT => some 1
  | .tFine => some 2
  | .tX100 => some 2
  | .pPa => some 3
  | .pQ8 => some 4
  | .coef => some 5

/-- Requests performed one after the other, each in the state the one before it leaves (R36). -/
def execAll : List Instr → State → Host.Outcome State Fault Refusal
  | [], s => .next s
  | i :: is, s =>
    match exec i s with
    | .next t => execAll is t
    | .fault r => .fault r
    | .refused r => .refused r

/-- 95_test_vectors section 1.1: the coefficient words of the source's test vector. -/
def sourceTable : Cal :=
  #v[0x6B99, 0x6529, 0x0032, 0x92AF, 0xD67E, 0x0BD0, 0x22C6, 0xFEE2, 0xFFF9, 0x3C8C, 0xC6F8, 0x1770]

end Sys2Proof.Claims

open Sys2Proof Sys2Proof.Machine Sys2Proof.Safety Sys2Proof.Claims

/-! ## Encoding and the boundary -/

/-- R39, R41, R42, R44: the decoder reads back what the encoder wrote, whatever bytes follow. That it reads the indices
R43 (d), (e) call illegal as requests of their row, too, is the model's choice (entry 4). -/
def Obligations.EncodeThenDecodeGivesBack : Prop :=
  ∀ (i : Instr) (rest : List Byte), decode (encode i ++ rest) = .instr i rest

/-- R39, R41, R44: what the decoder reads as a request is exactly that request's encoding and the bytes after it. -/
def Obligations.DecodedBytesAreTheEncoding : Prop :=
  ∀ (bytes rest : List Byte) (i : Instr), decode bytes = .instr i rest → bytes = encode i ++ rest

/-- R43: the illegal command bytes are exactly the five cases (`cmdIllegal`), all but the 17 listed bytes; each raises
`IllegalOp`, no legal one does, and every legal one is the command byte of a well-formed request. -/
def Obligations.ExactlyTheIllegalBytesRaiseIllegalOp : Prop :=
  legalBytes.length = 17 ∧ legalBytes.Nodup ∧
  ∀ cmd : Byte,
    (cmdIllegal cmd = false ↔ cmd ∈ legalBytes) ∧
    (cmd ∈ legalBytes → ∃ i, i.wellFormed = true ∧ (encode i).head? = some cmd) ∧
    (∀ s : State, cmdIllegal cmd = true → s.err = false →
      performRequest [cmd] s = .next (raise .illegalOp s)) ∧
    (∀ (s : State) (payload : List Byte), cmdIllegal cmd = false → s.err = false →
      performRequest (cmd :: payload) s ≠ .next (raise .illegalOp s))

/-- R44: the length of a request is fixed by its command byte: 25, 7 or 1, an illegal byte being a request of length 1;
the decoder takes exactly that many bytes. R34: it reads no request where there are fewer; that it rejects such a string
as `shortPayload` is the model's choice (entry 12). -/
def Obligations.CommandByteFixesRequestLength : Prop :=
  ∀ (cmd : Byte) (rest : List Byte),
    requestLength 0x01#8 = 25 ∧ requestLength 0x02#8 = 7 ∧ (cmd ≠ 0x01#8 → cmd ≠ 0x02#8 → requestLength cmd = 1) ∧
    (cmdIllegal cmd = true → requestLength cmd = 1) ∧
    ((cmd :: rest).length < requestLength cmd → decode (cmd :: rest) = .shortPayload cmd) ∧
    (requestLength cmd ≤ (cmd :: rest).length →
      (∃ i, decode (cmd :: rest) = .instr i ((cmd :: rest).drop (requestLength cmd))) ∨
      decode (cmd :: rest) = .illegalOp cmd ((cmd :: rest).drop (requestLength cmd)))

/-- R46, R30, R31: words written out from the encoding table decode to the requests they stand for. R43 (b), (c): 0x13
and 0x0B are no requests of a row; that the decoder rejects them by name is the model's choice (entry 4). -/
def Obligations.WrittenOutWordsDecode : Prop :=
  decode [0x01, 1, 2, 3, 4, 5, 6, 7, 8, 9, 10, 11, 12, 13, 14, 15, 16, 17, 18, 19, 20, 21, 22, 23, 24] =
    .instr (.ldcal #v[1, 2, 3, 4, 5, 6, 7, 8, 9, 10, 11, 12, 13, 14, 15, 16, 17, 18, 19, 20, 21, 22, 23, 24]) [] ∧
  decode [0x02, 0x4E, 0x54, 0x80, 0x8A, 0xBC, 0x40] = .instr (.ldraw #v[0x4E, 0x54, 0x80, 0x8A, 0xBC, 0x40]) [] ∧
  decode [0x03] = .instr .tcomp [] ∧ decode [0x04] = .instr .pcomp32 [] ∧ decode [0x05] = .instr .pcomp64 [] ∧
  decode [0x16] = .instr (.rdtc 1) [] ∧ decode [0x36] = .instr (.rdtc 3) [] ∧
  decode [0x17] = .instr (.rdpc 1) [] ∧ decode [0x97] = .instr (.rdpc 9) [] ∧
  decode [0x13] = .illegalOp 0x13 [] ∧ decode [0x0B] = .illegalOp 0x0B []

/-- R36, R39: a step performs the request whose bytes the host presents, in the state with those bytes taken (the taking
of the bytes from `port` is the model's form, entry 1). -/
def Obligations.StepPerformsTheDecodedRequest : Prop :=
  ∀ (s : State) (bytes : List Byte) (i : Instr) (port : List HostEvent),
    s.port = .request bytes :: port → decode bytes = .instr i [] → step s = exec i (setPort port s)

/-- The model's form of presenting a request (entry 1): the request of a table word is performed by the very next step. -/
def Obligations.TableWordIsPerformedNext : Prop :=
  ∀ (s : State) (nbits w : Nat) (i : Instr),
    decodeTableWord nbits w = some i → step (s.withFetchWord nbits w) = exec i s

/-- R34: exactly the byte strings that are no request are refused, never executed in part. What the host presents next
is the model's `port` (entry 1). Refusing is entry 12. -/
def Obligations.ExactlyMalformedRequestsAreRefused : Prop :=
  ∀ (s : State) (bytes : List Byte) (port : List HostEvent), s.port = .request bytes :: port →
    ((∀ cmd payload, bytes = cmd :: payload → bytes.length ≠ requestLength cmd) ↔
      step s = .refused .payloadLength)

/-- R46: a line of a listing reads back as written, with or without a comment after it (an operation's line is one of
a legal request; the encodings R43 calls illegal are written as `.byte`), and it presents to CORE the bytes of its row
of R46's table, or the reset input. What the host presents next is the model's `port` (entry 1). What the notation
leaves open is entry 14. -/
def Obligations.ListingLinesReadBackAndPresentTheirBytes : Prop :=
  ∀ line : SourceLine, (∀ i, line = .op i → i.wellFormed = true) →
    readLine (lineText line) = some [line] ∧
    (∀ note : List Char, readLine (lineText line ++ ' ' :: ';' :: note) = some [line]) ∧
    ∀ (s : State) (port : List HostEvent), s.port = assembleLine line :: port →
      match line with
      | .op i => step s = exec i (setPort port s)
      | .reset => step s = .next (assertReset (setPort port s))
      | .rawByte b => step s = performRequest [b] (setPort port s)

/-! ## Reset, `STATUS`, host reads -/

/-- R26: the state after reset: `STATUS` 0x00, `ECAUSE` 0, no data register holding a value. -/
def Obligations.ResetLeavesNoValues : Prop :=
  statusByte State.reset = 0x00#8 ∧ State.reset.ecause = 0#3 ∧
  State.reset.err = false ∧ State.reset.ovf = false ∧ State.reset.cal = none ∧ State.reset.raw = none ∧
  State.reset.temp = none ∧ State.reset.pPa = none ∧ State.reset.pQ8 = none ∧ State.reset.coef = none

/-- R105: the reset input puts CORE into the reset state from every state, and nothing else clears `ERR`, `ECAUSE`,
`OVF`, `CAL_VALID`, `RAW_VALID` or `COEF_VALID`, or makes `LDCAL` legal again. What the host presents next is the
model's `port` (entry 1). -/
def Obligations.OnlyTheResetInputClears : Prop :=
  (∀ (s : State) (port : List HostEvent), s.port = .reset :: port →
    ∃ t, step s = .next t ∧ setPort [] t = State.reset) ∧
  (∀ s t : State, step s = .next t → s.port.head? ≠ some .reset →
    (s.err = true → t.err = true) ∧ (s.ecause ≠ 0#3 → t.ecause ≠ 0#3) ∧ (s.ovf = true → t.ovf = true) ∧
    (s.cal.isSome → t.cal.isSome) ∧ (s.raw.isSome → t.raw.isSome) ∧ (s.coef.isSome → t.coef.isSome) ∧
    (s.cal.isSome → ∀ buf u, exec (.ldcal buf) t = .next u → u.err = true))

/-- R22: the bits of `STATUS`, which operation sets each, and which clears it. -/
def Obligations.StatusBitsChangeAsTabled : Prop :=
  (∀ s : State,
    (statusByte s).getLsbD 0 = s.cal.isSome ∧ (statusByte s).getLsbD 1 = s.raw.isSome ∧
    (statusByte s).getLsbD 2 = s.temp.isSome ∧ (statusByte s).getLsbD 3 = s.pPa.isSome ∧
    (statusByte s).getLsbD 4 = s.pQ8.isSome ∧ (statusByte s).getLsbD 5 = s.coef.isSome ∧
    (statusByte s).getLsbD 6 = s.ovf ∧ (statusByte s).getLsbD 7 = s.err) ∧
  (∀ s : State, statusByte (assertReset s) = 0#8) ∧
  (∀ (i : Instr) (s t : State), exec i s = .next t →
    ((statusByte t).getLsbD 0 ≠ (statusByte s).getLsbD 0 → (statusByte t).getLsbD 0 = true ∧ ∃ b, i = .ldcal b) ∧
    ((statusByte t).getLsbD 1 ≠ (statusByte s).getLsbD 1 → (statusByte t).getLsbD 1 = true ∧ ∃ m, i = .ldraw m) ∧
    ((statusByte t).getLsbD 2 ≠ (statusByte s).getLsbD 2 →
      if (statusByte t).getLsbD 2 then i = .tcomp else ∃ m, i = .ldraw m) ∧
    ((statusByte t).getLsbD 3 ≠ (statusByte s).getLsbD 3 →
      if (statusByte t).getLsbD 3 then i = .pcomp32 else ∃ m, i = .ldraw m) ∧
    ((statusByte t).getLsbD 4 ≠ (statusByte s).getLsbD 4 →
      if (statusByte t).getLsbD 4 then i = .pcomp64 else ∃ m, i = .ldraw m) ∧
    ((statusByte t).getLsbD 5 ≠ (statusByte s).getLsbD 5 →
      (statusByte t).getLsbD 5 = true ∧ ∃ idx, i = .rdtc idx ∨ i = .rdpc idx) ∧
    ((statusByte t).getLsbD 6 ≠ (statusByte s).getLsbD 6 →
      (statusByte t).getLsbD 6 = true ∧ (i = .tcomp ∨ i = .pcomp32 ∨ i = .pcomp64)) ∧
    ((statusByte t).getLsbD 7 ≠ (statusByte s).getLsbD 7 →
      (statusByte t).getLsbD 7 = true ∧ ∃ f, t = raise f s))

/-- R23, R103: a host read gives a number exactly while the register's valid bit is 1; `STATUS` and `ECAUSE` always. The
number is the register's value, by the register's type (R45 and R16 to R21): signed for `T_FINE`, `T_X100` and `COEF`,
unsigned for the others. That `CAL.W` can be read is entry 6, and so is its unsigned number. -/
def Obligations.HostReadFollowsValidBit : Prop :=
  (∀ (r : HostReg) (s : State),
    (hostRead r s).isSome = match validBit r with
      | some k => (statusByte s).getLsbD k
      | none => true) ∧
  (∀ s : State,
    hostRead .status s = some ((statusByte s).toNat : Int) ∧ hostRead .ecause s = some (s.ecause.toNat : Int) ∧
    (∀ (cal : Cal) (k : Fin 12), s.cal = some cal → hostRead (.calW k) s = some ((cal.get k).toNat : Int)) ∧
    (∀ raw, s.raw = some raw →
      hostRead .rawP s = some (raw.rawP.toNat : Int) ∧ hostRead .rawT s = some (raw.rawT.toNat : Int)) ∧
    (∀ temp, s.temp = some temp →
      hostRead .tFine s = some temp.tFine.toInt ∧ hostRead .tX100 s = some temp.tX100.toInt) ∧
    (∀ p, s.pPa = some p → hostRead .pPa s = some (p.toNat : Int)) ∧
    (∀ p, s.pQ8 = some p → hostRead .pQ8 s = some (p.toNat : Int)) ∧
    (∀ v, s.coef = some v → hostRead .coef s = some v.toInt))

/-- R14, R16 to R21, R24: each register is written by the operations its rule names and by no other. -/
def Obligations.OnlyTheNamedOperationsWriteEachRegister : Prop :=
  ∀ (i : Instr) (s t : State), exec i s = .next t →
    (t.cal ≠ s.cal → ∃ b, i = .ldcal b) ∧
    (t.raw ≠ s.raw → ∃ m, i = .ldraw m) ∧
    (t.temp ≠ s.temp → i = .tcomp ∨ ∃ m, i = .ldraw m) ∧
    (t.pPa ≠ s.pPa → i = .pcomp32 ∨ ∃ m, i = .ldraw m) ∧
    (t.pQ8 ≠ s.pQ8 → i = .pcomp64 ∨ ∃ m, i = .ldraw m) ∧
    (t.coef ≠ s.coef → ∃ idx, i = .rdtc idx ∨ i = .rdpc idx) ∧
    (t.ovf ≠ s.ovf → i = .tcomp ∨ i = .pcomp32 ∨ i = .pcomp64) ∧
    t.port = s.port

/-! ## Faults and flags -/

/-- R96: the fixed order of the checks: ignored while `ERR` = 1; else the first check that fails decides; else the
operation is performed and raises nothing. An illegal byte that selects no row raises `IllegalOp` whatever the valid bits. -/
def Obligations.ChecksAreMadeInOrder : Prop :=
  (∀ (i : Instr) (s : State),
    (s.err = true → exec i s = .next s) ∧
    (∀ f, s.err = false → firstFault i s = some f → exec i s = .next (raise f s)) ∧
    (s.err = false → firstFault i s = none → ∃ t, exec i s = .next t ∧ t.err = false ∧ t.ecause = s.ecause)) ∧
  (∀ (cmd : Byte) (s : State), cmdIllegal cmd = true →
    performRequest [cmd] s = if s.err then .next s else .next (raise .illegalOp s))

/-- R97: for every fault and state, fault entry sets `ERR` and stores the fault's code of R90 in `ECAUSE`, and changes
nothing else; a request that sets `ERR` has entered the fault of the check of R96 that failed. From reset, `TCOMP` gives
`STATUS` = 0x80, `ECAUSE` = 3. -/
def Obligations.FaultEntryChangesOnlyErrAndEcause : Prop :=
  faultCode .illegalOp = 1#3 ∧ faultCode .calLocked = 2#3 ∧ faultCode .noCal = 3#3 ∧ faultCode .noRaw = 4#3 ∧
  faultCode .noFine = 5#3 ∧
  (∀ (f : FaultCause) (s : State), raise f s = { s with err := true, ecause := faultCode f }) ∧
  (∀ (bytes : List Byte) (s t : State), s.err = false → performRequest bytes s = .next t → t.err = true →
    ∃ f, requestFault bytes s = some f ∧ t = { s with err := true, ecause := faultCode f }) ∧
  (∃ t, exec .tcomp State.reset = .next t ∧ statusByte t = 0x80#8 ∧ t.ecause = 3#3)

/-- R98: while `ERR` = 1 every request, legal or not, is taken at its length and changes nothing, and `ERR` stays
until the reset input. What the host presents next is the model's `port` (entry 1). -/
def Obligations.HaltedCoreIgnoresRequests : Prop :=
  (∀ (s : State) (cmd : Byte) (payload : List Byte) (port : List HostEvent), s.err = true →
    s.port = .request (cmd :: payload) :: port → (cmd :: payload).length = requestLength cmd →
    step s = .next (setPort port s)) ∧
  (∀ s t : State, s.err = true → step s = .next t → s.port.head? ≠ some .reset → t = { s with port := t.port })

/-- R24, R99: `OVF` is ORed with the operation's flag when the operation completes, its result being written all the same;
only `TCOMP`, `PCOMP32` and `PCOMP64` can set it, and no operation clears it. -/
def Obligations.OvfIsStickyAndStopsNothing : Prop :=
  (∀ (s : State) (cal : Cal) (raw : RawPair), s.err = false → s.cal = some cal → s.raw = some raw →
    ∃ t, exec .tcomp s = .next t ∧ t.err = false ∧ t.temp = some (temperature raw.rawT cal).value ∧
      t.ovf = (s.ovf || (temperature raw.rawT cal).ovf)) ∧
  (∀ (s : State) (cal : Cal) (raw : RawPair) (temp : TempPair), s.err = false → s.cal = some cal → s.raw = some raw →
    s.temp = some temp →
    (∃ t, exec .pcomp32 s = .next t ∧ t.err = false ∧
      t.pPa = some (fP32 Config.p32Threshold raw.rawP temp.tFine cal).value ∧
      t.ovf = (s.ovf || (fP32 Config.p32Threshold raw.rawP temp.tFine cal).ovf)) ∧
    (∃ t, exec .pcomp64 s = .next t ∧ t.err = false ∧ t.pQ8 = some (fP64 raw.rawP temp.tFine cal).value ∧
      t.ovf = (s.ovf || (fP64 raw.rawP temp.tFine cal).ovf))) ∧
  (∀ (i : Instr) (s t : State), exec i s = .next t → t.ovf ≠ s.ovf →
    t.ovf = true ∧ (i = .tcomp ∨ i = .pcomp32 ∨ i = .pcomp64))

/-- R25, R90: in every state reachable from reset `ECAUSE` is 0 exactly while `ERR` = 0 and never 6 or 7; a step that
sets `ERR` stores the code of the first check of R96 that failed for the request it took, and while `ERR` = 1 nothing but the reset input changes either.
What the host presents next is the model's `port` (entry 1). -/
def Obligations.EcauseHoldsTheFirstFault : Prop :=
  ∀ s : State, Reachable s →
    (s.ecause = 0#3 ↔ s.err = false) ∧ s.ecause ≠ 6#3 ∧ s.ecause ≠ 7#3 ∧
    (∀ t, step s = .next t → s.err = false → t.err = true →
      ∃ bytes f, s.port.head? = some (.request bytes) ∧ requestFault bytes s = some f ∧ t.ecause = faultCode f) ∧
    (∀ t, step s = .next t → s.err = true → s.port.head? ≠ some .reset → t.err = true ∧ t.ecause = s.ecause)

/-! ## Arithmetic -/

/-- R49, R50, R51, R55: the signed primitives compute the exact sum, difference, product or shifted value and narrow it;
`sext64` keeps the number. -/
def Obligations.SignedPrimitivesNarrowTheExactResult : Prop :=
  (∀ a b : S32, NarrowsSigned 32 (add32 a b) (a.toInt + b.toInt) ∧ NarrowsSigned 32 (sub32 a b) (a.toInt - b.toInt) ∧
    NarrowsSigned 32 (mul32 a b) (a.toInt * b.toInt)) ∧
  (∀ (a : S32) (k : Nat), 1 ≤ k → k ≤ 31 → NarrowsSigned 32 (shl32 a k) (a.toInt * 2 ^ k)) ∧
  (∀ a b : S64, NarrowsSigned 64 (add64 a b) (a.toInt + b.toInt) ∧ NarrowsSigned 64 (sub64 a b) (a.toInt - b.toInt) ∧
    NarrowsSigned 64 (mul64 a b) (a.toInt * b.toInt)) ∧
  (∀ (a : S64) (k : Nat), 1 ≤ k → k ≤ 63 → NarrowsSigned 64 (shl64 a k) (a.toInt * 2 ^ k)) ∧
  (∀ a : S32, (sext64 a).toInt = a.toInt)

/-- R52 (and R55 at width 64): the arithmetic right shift is the floor of the quotient, the vacated bits are copies of the
sign bit, it never overflows, and -1 shifted by any amount is -1. -/
def Obligations.ArithmeticShiftIsFloorAndNeverOverflows : Prop :=
  (∀ (a : S32) (k : Nat), 1 ≤ k → k ≤ 31 →
    (asr32 a k).ovf = false ∧ (asr32 a k).value = a.sshiftRight k ∧
    2 ^ k * (asr32 a k).value.toInt ≤ a.toInt ∧ a.toInt < 2 ^ k * ((asr32 a k).value.toInt + 1) ∧
    (asr32 (-1#32) k).value = -1#32) ∧
  (∀ (a : S64) (k : Nat), 1 ≤ k → k ≤ 63 →
    (asr64 a k).ovf = false ∧ (asr64 a k).value = a.sshiftRight k ∧
    2 ^ k * (asr64 a k).value.toInt ≤ a.toInt ∧ a.toInt < 2 ^ k * ((asr64 a k).value.toInt + 1))

/-- R53: the unsigned primitives; the logical shift and the division never overflow; the divisor of `F_P32` is nonzero
because its denominator is. -/
def Obligations.UnsignedPrimitivesNarrowTheExactResult : Prop :=
  (∀ a b : U32, NarrowsUnsigned 32 (mulu32 a b) ((a.toNat : Int) * (b.toNat : Int))) ∧
  (∀ (a : U32) (k : Nat), 1 ≤ k → k ≤ 31 →
    NarrowsUnsigned 32 (shlu32 a k) ((a.toNat : Int) * 2 ^ k) ∧
    (lsr32 a k).ovf = false ∧ (lsr32 a k).value = a >>> k ∧ (lsr32 a k).value.toNat = a.toNat / 2 ^ k) ∧
  (∀ a b : U32, b ≠ 0#32 → (divu32 a b).ovf = false ∧ (divu32 a b).value.toNat = a.toNat / b.toNat) ∧
  (∀ v : S32, v ≠ 0#32 → (tou32 v).value ≠ 0#32)

/-- R54: the conversions keep the 32-bit pattern and flag a change of the number. -/
def Obligations.ConversionsKeepThePattern : Prop :=
  (∀ a : S32, (tou32 a).value = a ∧ ((tou32 a).ovf = true ↔ a.toInt < 0) ∧
    ((tou32 a).value.toNat : Int) = if a.toInt < 0 then a.toInt + 2 ^ 32 else a.toInt) ∧
  (∀ a : U32, (tos32 a).value = a ∧ ((tos32 a).ovf = true ↔ 2 ^ 31 ≤ a.toNat) ∧
    (tos32 a).value.toInt = if 2 ^ 31 ≤ a.toNat then (a.toNat : Int) - 2 ^ 32 else (a.toNat : Int))

/-- R56: for a nonzero divisor the quotient rounded toward zero, overflowing in the one case -2^63 by -1. -/
def Obligations.SignedDivisionTruncates : Prop :=
  ∀ a b : S64, b ≠ 0#64 →
    if a = BitVec.intMin 64 ∧ b = -1#64 then (sdiv64 a b).ovf = true ∧ (sdiv64 a b).value = BitVec.intMin 64
    else (sdiv64 a b).ovf = false ∧ (sdiv64 a b).value.toInt = a.toInt.tdiv b.toInt

/-- R57: the low 32 bits, flagged when the number is not in 0..2^32-1. -/
def Obligations.ResultNarrowingKeepsLowBits : Prop :=
  ∀ a : S64, (tou32of64 a).value = a.setWidth 32 ∧
    ((tou32of64 a).ovf = false ↔ 0 ≤ a.toInt ∧ a.toInt < 2 ^ 32) ∧
    ((tou32of64 a).ovf = false → ((tou32of64 a).value.toNat : Int) = a.toInt)

/-- R12, R13, R58, R62, R63: the accessors are defined exactly on 1..3 and 1..9, read word `i-1` and word `2+i` with their
signedness, the same number at width 32 and 64, and index 1 is never negative. -/
def Obligations.AccessorsReadTheSignedNumber : Prop :=
  (∀ (cal : Cal) (idx : BitVec 4),
    if 1 ≤ idx.toNat ∧ idx.toNat ≤ 3 then
      ∃ c, tCoef idx = some c ∧ (coef32 cal c).toInt = coefNumber cal (Fin.ofNat 12 (idx.toNat - 1)) ∧
        (coef64 cal c).toInt = (coef32 cal c).toInt ∧ (idx = 1#4 → 0 ≤ (coef32 cal c).toInt)
    else tCoef idx = none) ∧
  (∀ (cal : Cal) (idx : BitVec 4),
    if 1 ≤ idx.toNat ∧ idx.toNat ≤ 9 then
      ∃ c, pCoef idx = some c ∧ (coef32 cal c).toInt = pNumber cal idx.toNat ∧
        (coef64 cal c).toInt = (coef32 cal c).toInt ∧ (idx = 1#4 → 0 ≤ (coef32 cal c).toInt)
    else pCoef idx = none)

/-! ## The pure functions -/

/-- R61: word k is byte 2k plus 256 times byte 2k+1, and depends on no other byte. -/
def Obligations.ParseIsLittleEndianInOrder : Prop :=
  ∀ (b : CalBuf) (k : Fin 12),
    ((fParse b).get k).toNat = b[2 * k.val].toNat + 256 * b[2 * k.val + 1].toNat ∧
    ∀ b' : CalBuf, b'[2 * k.val] = b[2 * k.val] → b'[2 * k.val + 1] = b[2 * k.val + 1] →
      (fParse b').get k = (fParse b).get k

/-- R68: pressure from bytes 0..2 and temperature from bytes 3..5, most significant first, the top 20 of the 24 bits; the
low four bits of bytes 2 and 5 have no effect; every pair of 20-bit values is the image of some string. -/
def Obligations.RawDecodeTakesTheTopTwentyBits : Prop :=
  (∀ m : MeasBuf,
    (fRaw m).rawP = (m[0] ++ m[1] ++ m[2]).extractLsb' 4 20 ∧
    (fRaw m).rawT = (m[3] ++ m[4] ++ m[5]).extractLsb' 4 20 ∧
    (fRaw m).rawP.toNat = m[0].toNat * 2 ^ 12 + m[1].toNat * 2 ^ 4 + m[2].toNat / 2 ^ 4 ∧
    (fRaw m).rawT.toNat = m[3].toNat * 2 ^ 12 + m[4].toNat * 2 ^ 4 + m[5].toNat / 2 ^ 4) ∧
  (∀ m m' : MeasBuf, m'[0] = m[0] → m'[1] = m[1] → m'[2] >>> 4 = m[2] >>> 4 → m'[3] = m[3] → m'[4] = m[4] →
    m'[5] >>> 4 = m[5] >>> 4 → fRaw m' = fRaw m) ∧
  (∀ p t : U20, ∃ m : MeasBuf, fRaw m = ⟨p, t⟩)

/-- R67: what `RDTC` and `RDPC` leave in `COEF` holds the stored word in its 16 low bits, and above them zeros for
index 1 and copies of the word's bit 15 for every other index. The spec marks R67 as its own inference. -/
def Obligations.ReadBackKeepsTheWord : Prop :=
  (∀ (s : State) (cal : Cal) (idx : BitVec 4), s.err = false → s.cal = some cal → 1 ≤ idx.toNat → idx.toNat ≤ 3 →
    ∃ t v, exec (.rdtc idx) s = .next t ∧ t.coef = some v ∧
      v.extractLsb' 0 16 = cal.get (Fin.ofNat 12 (idx.toNat - 1)) ∧
      v.extractLsb' 16 16 = if idx = 1#4 ∨ (cal.get (Fin.ofNat 12 (idx.toNat - 1))).msb = false then 0x0000#16 else 0xFFFF#16) ∧
  (∀ (s : State) (cal : Cal) (idx : BitVec 4), s.err = false → s.cal = some cal → 1 ≤ idx.toNat → idx.toNat ≤ 9 →
    ∃ t v, exec (.rdpc idx) s = .next t ∧ t.coef = some v ∧
      v.extractLsb' 0 16 = cal.get (Fin.ofNat 12 (2 + idx.toNat)) ∧
      v.extractLsb' 16 16 = if idx = 1#4 ∨ (cal.get (Fin.ofNat 12 (2 + idx.toNat))).msb = false then 0x0000#16 else 0xFFFF#16)

/-- R60(e) for `F_TFINE` (R71): if no primitive sets `ovf`, the result is the formula's value over the integers. The
spec marks R60 as its own inference. -/
def Obligations.FineTemperatureIsExactWithoutOverflow : Prop :=
  ∀ (rawT : U20) (cal : Cal), (fTfine rawT cal).ovf = false →
    (fTfine rawT cal).value.toInt = tfineExact rawT.toNat cal

/-- R72: the formula; `fine * 5 / 256` rounded to the nearest integer, halves up; where each primitive overflows; and that
none does for a `fine` that `F_TFINE` produced. -/
def Obligations.HundredthsAreRoundedHalfUp : Prop :=
  (∀ fine : S32,
    (fTx100 fine).value = (asr32 (add32 (mul32 fine 5#32).value 128#32).value 8).value ∧
    ((mul32 fine 5#32).ovf = true ↔ 429496729 < fine.toInt ∨ fine.toInt < -429496729) ∧
    ((mul32 fine 5#32).ovf = false → ((add32 (mul32 fine 5#32).value 128#32).ovf = true ↔ 429496704 ≤ fine.toInt)) ∧
    ((fTx100 fine).ovf = true ↔ fine.toInt < -429496729 ∨ 429496704 ≤ fine.toInt) ∧
    ((fTx100 fine).ovf = false →
      256 * (fTx100 fine).value.toInt ≤ fine.toInt * 5 + 128 ∧
      fine.toInt * 5 + 128 < 256 * (fTx100 fine).value.toInt + 256)) ∧
  (∀ (rawT : U20) (cal : Cal), (fTx100 (fTfine rawT cal).value).ovf = false)

/-- R75(e), (f): the ranges of `T_FINE` and `T_X100`, for every raw value and every table, overflow or not. The spec
marks R75 as its own inference. -/
def Obligations.TemperatureRangesHoldForAllInputs : Prop :=
  ∀ (rawT : U20) (cal : Cal),
    -1179648 ≤ (fTfine rawT cal).value.toInt ∧ (fTfine rawT cal).value.toInt ≤ 1179646 ∧
    -23040 ≤ (fTx100 (fTfine rawT cal).value).value.toInt ∧ (fTx100 (fTfine rawT cal).value).value.toInt ≤ 23040

/-- R75(c), (g): the square overflows exactly when `raw_t >> 4` is 46341 or more away from T1: every table shows the
overflow then, and a table with T2 = T3 = 0, for which no other primitive can overflow, shows one at no smaller distance.
With the source's table no primitive overflows for any raw temperature. The spec marks R75 as its own inference. -/
def Obligations.TemperatureSquareOverflowsExactlyFarFromT1 : Prop :=
  (∀ (rawT : U20) (cal : Cal),
    46341 ≤ ((rawT.toNat : Int) / 2 ^ 4 - coefNumber cal 0).natAbs → (fTfine rawT cal).ovf = true) ∧
  (∀ (rawT : U20) (cal : Cal), cal.get 1 = 0#16 → cal.get 2 = 0#16 →
    ((fTfine rawT cal).ovf = true ↔ 46341 ≤ ((rawT.toNat : Int) / 2 ^ 4 - coefNumber cal 0).natAbs)) ∧
  (∀ rawT : U20, (temperature rawT sourceTable).ovf = false)

/-- R60(e) for `F_P32` (R78, R79, R80), at every threshold. The spec marks R60 as its own inference. The spec marks
the body as general knowledge (entry 7). -/
def Obligations.PressureThirtyTwoIsExactWithoutOverflow : Prop :=
  ∀ (thr : U32) (rawP : U20) (fine : S32) (cal : Cal), (fP32 thr rawP fine cal).ovf = false →
    ((fP32 thr rawP fine cal).value.toNat : Int) = p32Exact thr.toNat rawP.toNat fine.toInt cal

/-- R79: a zero denominator gives 0 at once, the `ovf` set before it staying; a zero `P1` makes both variants 0
whatever the other inputs; with `P1` = 1 the denominator can be zero too; the exit raises nothing. That `P1` = 1 can
do it is R82(c), which the spec marks as its own inference. The spec marks the body as general knowledge (entry 7). -/
def Obligations.ZeroDenominatorReturnsZero : Prop :=
  (∀ (thr : U32) (rawP : U20) (fine : S32) (cal : Cal), (p32Denominator fine cal).value.2 = 0#32 →
    fP32 thr rawP fine cal = ⟨0#32, (p32Denominator fine cal).ovf⟩) ∧
  (∀ (thr : U32) (rawP : U20) (fine : S32) (cal : Cal), cal.get 3 = 0#16 →
    (fP32 thr rawP fine cal).value = 0#32 ∧ (fP64 rawP fine cal).value = 0#32) ∧
  ((p32Denominator 201633#32 (sourceTable.set 3 1#16)).value.2 = 0#32) ∧
  (∀ (s : State) (cal : Cal) (raw : RawPair) (temp : TempPair), s.err = false → s.cal = some cal → s.raw = some raw →
    s.temp = some temp → (p32Denominator temp.tFine cal).value.2 = 0#32 →
    exec .pcomp32 s = .next { s with pPa := some 0#32, ovf := s.ovf || (p32Denominator temp.tFine cal).ovf })

/-- R80, R82(h): the threshold branch with the source's literal 2^27: below it double then divide, which cannot
overflow; from it on divide then double, which is even, overflows only for a divisor of 1, and is smaller by 1 than
the other form exactly when the remainder is at least half the divisor. That it overflows only for a divisor of 1 is
R82(h), which the spec marks as its own inference. The literal is entry 7. -/
def Obligations.ThresholdBranchDividesAsStated : Prop :=
  Config.p32Threshold.toNat = 134217728 ∧
  ∀ p1 dv : U32, dv ≠ 0#32 →
    (p1.toNat < 134217728 →
      (p32Quotient Config.p32Threshold p1 dv).ovf = false ∧
      (p32Quotient Config.p32Threshold p1 dv).value.toNat = 2 * p1.toNat / dv.toNat) ∧
    (134217728 ≤ p1.toNat →
      ((p32Quotient Config.p32Threshold p1 dv).ovf = true ↔ dv = 1#32 ∧ 2 ^ 31 ≤ p1.toNat) ∧
      (p32Quotient Config.p32Threshold p1 dv).value.toNat % 2 = 0 ∧
      ((p32Quotient Config.p32Threshold p1 dv).ovf = false →
        2 * p1.toNat / dv.toNat = (p32Quotient Config.p32Threshold p1 dv).value.toNat +
          if dv.toNat ≤ 2 * (p1.toNat % dv.toNat) then 1 else 0))

/-- R82(c): for every `s32` `fine` and every table the denominator of `F_P32` is zero when `P1` = 0, 0 or 1 when `P1`
= 1, and never zero otherwise. The spec marks R82 as its own inference. The spec marks the body as general knowledge
(entry 7). -/
def Obligations.DenominatorIsZeroOnlyForTinyP1 : Prop :=
  ∀ (fine : S32) (cal : Cal),
    ((cal.get 3).toNat = 0 → (p32Denominator fine cal).value.2 = 0#32) ∧
    ((cal.get 3).toNat = 1 → (p32Denominator fine cal).value.2 = 0#32 ∨ (p32Denominator fine cal).value.2 = 1#32) ∧
    (2 ≤ (cal.get 3).toNat → (p32Denominator fine cal).value.2 ≠ 0#32)

/-- R82(b): the square overflows exactly for `fine` below -242720 or above 498727: every table shows it, and with the
all-zero table nothing else overflows. The spec marks R82 as its own inference. The spec marks the body as general
knowledge (entry 7). -/
def Obligations.PressureSquareOverflowsOutsideItsRange : Prop :=
  ∀ fine : S32,
    (∀ cal : Cal, fine.toInt < -242720 ∨ 498727 < fine.toInt → (p32Denominator fine cal).ovf = true) ∧
    ((p32Denominator fine (Vector.replicate 12 0#16)).ovf = true ↔ fine.toInt < -242720 ∨ 498727 < fine.toInt)

/-- R60(e) for `F_P64` (R84, R85). The spec marks R60 as its own inference. The spec marks the body as general
knowledge (entry 7). -/
def Obligations.PressureSixtyFourIsExactWithoutOverflow : Prop :=
  ∀ (rawP : U20) (fine : S32) (cal : Cal), (fP64 rawP fine cal).ovf = false →
    ((fP64 rawP fine cal).value.toNat : Int) = p64Exact rawP.toNat fine.toInt cal

/-- R85: a zero denominator gives 0 at once, the `ovf` set before it staying; the denominator, not `P1`, is tested:
with the source's table and `P1` = 1 it is 16018. The spec marks the body as general knowledge (entry 7). -/
def Obligations.ZeroDenominatorSixtyFourReturnsZero : Prop :=
  (∀ (rawP : U20) (fine : S32) (cal : Cal), (p64Denominator fine cal).value.2 = 0#64 →
    fP64 rawP fine cal = ⟨0#32, (p64Denominator fine cal).ovf⟩) ∧
  (∀ (fine : S32) (cal : Cal), cal.get 3 = 0#16 → (p64Denominator fine cal).value.2 = 0#64) ∧
  ((p64Denominator 201633#32 (sourceTable.set 3 1#16)).value.2 = 16018#64) ∧
  (∀ (s : State) (cal : Cal) (raw : RawPair) (temp : TempPair), s.err = false → s.cal = some cal → s.raw = some raw →
    s.temp = some temp → (p64Denominator temp.tFine cal).value.2 = 0#64 →
    exec .pcomp64 s = .next { s with pQ8 := some 0#32, ovf := s.ovf || (p64Denominator temp.tFine cal).ovf })

/-- R88(a), (b): the difference and its square never overflow, for any `fine`. For `|fine|` up to 1179648 no primitive
before the sum 2^47 + `v1b` and the product with `P1` overflows, whatever the table, nor does that sum; and where `P1` = 0
the product does not either. The spec marks R88 as its own inference. The spec marks the body as general knowledge
(entry 7). -/
def Obligations.WideDenominatorIsExactBeforeP1 : Prop :=
  (∀ fine : S32,
    (sub64 (sext64 fine) 128000#64).ovf = false ∧
    (mul64 (sub64 (sext64 fine) 128000#64).value (sub64 (sext64 fine) 128000#64).value).ovf = false ∧
    (p64Denominator fine (Vector.replicate 12 0#16)).ovf = false) ∧
  (∀ (fine : S32) (cal : Cal), fine.toInt.natAbs ≤ 1179648 →
    (p64Terms fine cal).ovf = false ∧ (add64 140737488355328#64 (p64Terms fine cal).value.2).ovf = false ∧
    (cal.get 3 = 0#16 → (p64Denominator fine cal).ovf = false))

/-! ## The operations -/

/-- R64: `LDCAL`. -/
def Obligations.LdcalLoadsTheTableOnce : Prop :=
  ∀ (buf : CalBuf) (s : State),
    encode (.ldcal buf) = 0x01#8 :: buf.toList ∧
    (s.err = true → exec (.ldcal buf) s = .next s) ∧
    (∀ cmd : Byte, cmdOp cmd = 1#3 → cmdIllegal cmd = true → s.err = false →
      performRequest [cmd] s = .next (raise .illegalOp s)) ∧
    (s.err = false → s.cal.isSome → exec (.ldcal buf) s = .next (raise .calLocked s)) ∧
    (s.err = false → s.cal = none → exec (.ldcal buf) s = .next { s with cal := some (fParse buf) })

/-- R69: `LDRAW`. -/
def Obligations.LdrawLoadsTheSampleAndDropsOldResults : Prop :=
  ∀ (m : MeasBuf) (s : State),
    encode (.ldraw m) = 0x02#8 :: m.toList ∧
    (s.err = true → exec (.ldraw m) s = .next s) ∧
    (∀ cmd : Byte, cmdOp cmd = 2#3 → cmdIllegal cmd = true → s.err = false →
      performRequest [cmd] s = .next (raise .illegalOp s)) ∧
    (s.err = false →
      exec (.ldraw m) s = .next { s with raw := some (fRaw m), temp := none, pPa := none, pQ8 := none })

/-- R65: `RDTC`, at every value of the index field. -/
def Obligations.RdtcReadsTheTemperatureCoefficient : Prop :=
  ∀ (idx : BitVec 4) (s : State),
    encode (.rdtc idx) = [idx ++ 0x6#4] ∧
    (s.err = true → exec (.rdtc idx) s = .next s) ∧
    (∀ cmd : Byte, cmdOp cmd = 6#3 → cmdIllegal cmd = true → s.err = false →
      performRequest [cmd] s = .next (raise .illegalOp s)) ∧
    (s.err = false → ¬(1 ≤ idx.toNat ∧ idx.toNat ≤ 3) → exec (.rdtc idx) s = .next (raise .illegalOp s)) ∧
    (s.err = false → 1 ≤ idx.toNat → idx.toNat ≤ 3 → s.cal = none → exec (.rdtc idx) s = .next (raise .noCal s)) ∧
    (∀ cal, s.err = false → 1 ≤ idx.toNat → idx.toNat ≤ 3 → s.cal = some cal →
      ∃ v, v.toInt = coefNumber cal (Fin.ofNat 12 (idx.toNat - 1)) ∧
        exec (.rdtc idx) s = .next { s with coef := some v })

/-- R66: `RDPC`, at every value of the index field. -/
def Obligations.RdpcReadsThePressureCoefficient : Prop :=
  ∀ (idx : BitVec 4) (s : State),
    encode (.rdpc idx) = [idx ++ 0x7#4] ∧
    (s.err = true → exec (.rdpc idx) s = .next s) ∧
    (∀ cmd : Byte, cmdOp cmd = 7#3 → cmdIllegal cmd = true → s.err = false →
      performRequest [cmd] s = .next (raise .illegalOp s)) ∧
    (s.err = false → ¬(1 ≤ idx.toNat ∧ idx.toNat ≤ 9) → exec (.rdpc idx) s = .next (raise .illegalOp s)) ∧
    (s.err = false → 1 ≤ idx.toNat → idx.toNat ≤ 9 → s.cal = none → exec (.rdpc idx) s = .next (raise .noCal s)) ∧
    (∀ cal, s.err = false → 1 ≤ idx.toNat → idx.toNat ≤ 9 → s.cal = some cal →
      ∃ v, v.toInt = pNumber cal idx.toNat ∧ exec (.rdpc idx) s = .next { s with coef := some v })

/-- R73: `TCOMP`. -/
def Obligations.TcompComputesTheTemperature : Prop :=
  ∀ s : State,
    encode .tcomp = [0x03#8] ∧
    (s.err = true → exec .tcomp s = .next s) ∧
    (∀ cmd : Byte, cmdOp cmd = 3#3 → cmdIllegal cmd = true → s.err = false →
      performRequest [cmd] s = .next (raise .illegalOp s)) ∧
    (s.err = false → s.cal = none → exec .tcomp s = .next (raise .noCal s)) ∧
    (s.err = false → s.cal.isSome → s.raw = none → exec .tcomp s = .next (raise .noRaw s)) ∧
    (∀ cal raw, s.err = false → s.cal = some cal → s.raw = some raw →
      exec .tcomp s = .next { s with
        temp := some ⟨(fTfine raw.rawT cal).value, (fTx100 (fTfine raw.rawT cal).value).value⟩
        ovf := s.ovf || ((fTfine raw.rawT cal).ovf || (fTx100 (fTfine raw.rawT cal).value).ovf) })

/-- R81: `PCOMP32`. -/
def Obligations.PcompThirtyTwoComputesThePressure : Prop :=
  ∀ s : State,
    encode .pcomp32 = [0x04#8] ∧
    (s.err = true → exec .pcomp32 s = .next s) ∧
    (∀ cmd : Byte, cmdOp cmd = 4#3 → cmdIllegal cmd = true → s.err = false →
      performRequest [cmd] s = .next (raise .illegalOp s)) ∧
    (s.err = false → s.cal = none → exec .pcomp32 s = .next (raise .noCal s)) ∧
    (s.err = false → s.cal.isSome → s.raw = none → exec .pcomp32 s = .next (raise .noRaw s)) ∧
    (s.err = false → s.cal.isSome → s.raw.isSome → s.temp = none → exec .pcomp32 s = .next (raise .noFine s)) ∧
    (∀ cal raw temp, s.err = false → s.cal = some cal → s.raw = some raw → s.temp = some temp →
      exec .pcomp32 s = .next { s with
        pPa := some (fP32 0x8000000#32 raw.rawP temp.tFine cal).value
        ovf := s.ovf || (fP32 0x8000000#32 raw.rawP temp.tFine cal).ovf })

/-- R87: `PCOMP64`. -/
def Obligations.PcompSixtyFourComputesThePressure : Prop :=
  ∀ s : State,
    encode .pcomp64 = [0x05#8] ∧
    (s.err = true → exec .pcomp64 s = .next s) ∧
    (∀ cmd : Byte, cmdOp cmd = 5#3 → cmdIllegal cmd = true → s.err = false →
      performRequest [cmd] s = .next (raise .illegalOp s)) ∧
    (s.err = false → s.cal = none → exec .pcomp64 s = .next (raise .noCal s)) ∧
    (s.err = false → s.cal.isSome → s.raw = none → exec .pcomp64 s = .next (raise .noRaw s)) ∧
    (s.err = false → s.cal.isSome → s.raw.isSome → s.temp = none → exec .pcomp64 s = .next (raise .noFine s)) ∧
    (∀ cal raw temp, s.err = false → s.cal = some cal → s.raw = some raw → s.temp = some temp →
      exec .pcomp64 s = .next { s with
        pQ8 := some (fP64 raw.rawP temp.tFine cal).value
        ovf := s.ovf || (fP64 raw.rawP temp.tFine cal).ovf })

/-! ## Frames -/

/-- R64, R69, R90, R97: what `LDCAL` and `LDRAW` leave unchanged, on every path; on a fault also what they would write. -/
def Obligations.LoadsLeaveTheRestUnchanged : Prop :=
  (∀ (buf : CalBuf) (s t : State), exec (.ldcal buf) s = .next t →
    t.raw = s.raw ∧ t.temp = s.temp ∧ t.pPa = s.pPa ∧ t.pQ8 = s.pQ8 ∧ t.coef = s.coef ∧ t.ovf = s.ovf ∧
    t.port = s.port ∧ ((t.err = s.err ∧ t.ecause = s.ecause) ∨ (t.err = true ∧ t.cal = s.cal))) ∧
  (∀ (m : MeasBuf) (s t : State), exec (.ldraw m) s = .next t →
    t.cal = s.cal ∧ t.coef = s.coef ∧ t.ovf = s.ovf ∧ t.err = s.err ∧ t.ecause = s.ecause ∧ t.port = s.port)

/-- R73, R81, R87, R90, R97: what `TCOMP`, `PCOMP32` and `PCOMP64` leave unchanged, on every path; on a fault also the
result register and `OVF`. -/
def Obligations.FormulaOperationsLeaveTheRestUnchanged : Prop :=
  (∀ s t : State, exec .tcomp s = .next t →
    t.cal = s.cal ∧ t.raw = s.raw ∧ t.pPa = s.pPa ∧ t.pQ8 = s.pQ8 ∧ t.coef = s.coef ∧ t.port = s.port ∧
    ((t.err = s.err ∧ t.ecause = s.ecause) ∨ (t.err = true ∧ t.temp = s.temp ∧ t.ovf = s.ovf))) ∧
  (∀ s t : State, exec .pcomp32 s = .next t →
    t.cal = s.cal ∧ t.raw = s.raw ∧ t.temp = s.temp ∧ t.pQ8 = s.pQ8 ∧ t.coef = s.coef ∧ t.port = s.port ∧
    ((t.err = s.err ∧ t.ecause = s.ecause) ∨ (t.err = true ∧ t.pPa = s.pPa ∧ t.ovf = s.ovf))) ∧
  (∀ s t : State, exec .pcomp64 s = .next t →
    t.cal = s.cal ∧ t.raw = s.raw ∧ t.temp = s.temp ∧ t.pPa = s.pPa ∧ t.coef = s.coef ∧ t.port = s.port ∧
    ((t.err = s.err ∧ t.ecause = s.ecause) ∨ (t.err = true ∧ t.pQ8 = s.pQ8 ∧ t.ovf = s.ovf)))

/-- R65, R66, R90, R97: what `RDTC` and `RDPC` leave unchanged, on every path and for every index; on a fault also
`COEF`. -/
def Obligations.ReadBacksLeaveTheRestUnchanged : Prop :=
  ∀ (idx : BitVec 4) (i : Instr) (s t : State), i = .rdtc idx ∨ i = .rdpc idx → exec i s = .next t →
    t.cal = s.cal ∧ t.raw = s.raw ∧ t.temp = s.temp ∧ t.pPa = s.pPa ∧ t.pQ8 = s.pQ8 ∧ t.ovf = s.ovf ∧
    t.port = s.port ∧ ((t.err = s.err ∧ t.ecause = s.ecause) ∨ (t.err = true ∧ t.coef = s.coef))

/-! ## Whole-machine properties -/

/-- R81, R87: both variants can be computed in either order, in every state, with the same end state. -/
def Obligations.PressureVariantsCommute : Prop :=
  ∀ s : State, execAll [.pcomp32, .pcomp64] s = execAll [.pcomp64, .pcomp32] s

/-- R35, R69, R73, R103: repeating any request but `LDCAL` at once changes nothing more. -/
def Obligations.RepeatingARequestChangesNothing : Prop :=
  ∀ (i : Instr) (s t : State), (∀ buf, i ≠ .ldcal buf) → exec i s = .next t → exec i t = .next t

/-- R92, R14, R109: after an `LDCAL` that completes every other one raises `CalLocked`, the table keeping its value,
also with the same bytes; no event but the reset input ever changes a loaded table. What the host presents next is the
model's `port` (entry 1). -/
def Obligations.TableIsImmutableUntilReset : Prop :=
  (∀ (buf buf' : CalBuf) (s t : State), exec (.ldcal buf) s = .next t → t.err = false →
    exec (.ldcal buf') t = .next (raise .calLocked t) ∧ (raise .calLocked t).cal = some (fParse buf)) ∧
  (∀ (s t : State) (cal : Cal), step s = .next t → s.port.head? ≠ some .reset → s.cal = some cal → t.cal = some cal)

/-- R28(e), R69, R107: the results for a sample depend on the table and that sample alone: two states with the same
table end with the same results, whatever earlier samples left behind. The spec marks R28 as its own inference. -/
def Obligations.EarlierSamplesDoNotInfluenceResults : Prop :=
  ∀ (m : MeasBuf) (s₁ s₂ t₁ t₂ : State), s₁.cal = s₂.cal →
    execAll [.ldraw m, .tcomp, .pcomp32, .pcomp64] s₁ = .next t₁ → t₁.err = false →
    execAll [.ldraw m, .tcomp, .pcomp32, .pcomp64] s₂ = .next t₂ → t₂.err = false →
    t₁.raw = t₂.raw ∧ t₁.temp = t₂.temp ∧ t₁.pPa = t₂.pPa ∧ t₁.pQ8 = t₂.pQ8

/-- R106: the boot order completes for every calibration and measurement block, with `LDCAL` and the first `LDRAW` in
either order, and leaves the values of the pure functions in the registers. -/
def Obligations.BootOrderCompletes : Prop :=
  ∀ (s : State) (buf : CalBuf) (m : MeasBuf), s.err = false → s.cal = none →
    ∃ t, execAll [.ldcal buf, .ldraw m, .tcomp, .pcomp32, .pcomp64] s = .next t ∧
      execAll [.ldraw m, .ldcal buf, .tcomp, .pcomp32, .pcomp64] s = .next t ∧
      t.err = false ∧ t.cal = some (fParse buf) ∧ t.raw = some (fRaw m) ∧
      ∃ temp, t.temp = some temp ∧
        temp.tFine = (fTfine (fRaw m).rawT (fParse buf)).value ∧ temp.tX100 = (fTx100 temp.tFine).value ∧
        t.pPa = some (fP32 Config.p32Threshold (fRaw m).rawP temp.tFine (fParse buf)).value ∧
        t.pQ8 = some (fP64 (fRaw m).rawP temp.tFine (fParse buf)).value

/-! ## Invariants -/

/-- R28 (a) to (e): every step keeps them, from every state that meets them. The spec marks R28 as its own inference.
What the host presents next is the model's `port` (entry 1). -/
def Obligations.StepKeepsConsistency : Prop :=
  ∀ s t : State, Consistent s → step s = .next t → Consistent t

/-- R28, R26: the reset state meets them, whatever the host has to present. The spec marks R28 as its own inference.
What the host presents next is the model's `port` (entry 1). -/
def Obligations.ResetIsConsistent : Prop :=
  ∀ events : List HostEvent, Consistent (start events)

/-- R28 (a) to (g): in every state reachable from reset, over every list of host events. R113: the run of every list of
requests and reset inputs ends, in a reachable state whose list is exhausted, which is good or has faulted; what comes
after a fault is ignored up to the next reset input. The spec marks R28 as its own inference. What the host presents next
is the model's `port` (entry 1). -/
def Obligations.ReachableStatesAreConsistent : Prop :=
  (∀ s : State, Reachable s →
    Consistent s ∧
    ∀ t, step s = .next t → s.port.head? ≠ some .reset →
      (∀ cal, s.cal = some cal → t.cal = some cal) ∧
      (s.ovf = true → t.ovf = true) ∧ (s.err = true → t.err = true)) ∧
  (∀ events : List HostEvent, AllRequestsProper events →
    ∃ t, run events = .next t ∧ Reachable t ∧ (GoodFinal t ∨ FaultedFinal t)) ∧
  (∀ (before after : List HostEvent) (t : State), run before = .next t → FaultedFinal t → AllRequestsProper after →
    HostEvent.reset ∉ after → run (before ++ after) = .next t)

/-! ## The host's arithmetic -/

/-- R74, R86, R110: `TDEG` rounds toward zero; whole Pascals and the fraction make up `P_Q8`; only a whole register of 0
is the sentinel. -/
def Obligations.HostArithmeticRoundsAsStated : Prop :=
  (∀ x : S32, (tdeg x * 100).natAbs ≤ x.toInt.natAbs ∧ x.toInt.natAbs < (tdeg x * 100).natAbs + 100 ∧
    0 ≤ tdeg x * x.toInt) ∧
  (∀ p : U32, pQ8Whole p = (p >>> 8).toNat ∧ pQ8Fraction p = (p.extractLsb' 0 8).toNat ∧
    p.toNat = 256 * pQ8Whole p + pQ8Fraction p ∧ (isSentinel p = true ↔ p.toNat = 0))
end

