-- ==== Sys2Proof/Laws/Assembler.lean ====
section
/-! SUPPORT. The words of a written line, and the digits of a byte read back. -/

namespace Sys2Proof.Machine

/-- R46: characters that are no spaces go on the word begun. -/
theorem lineWords_append (word chars rest : List Char) (h : ' ' ∉ chars) :
    lineWords word (chars ++ rest) = lineWords (word ++ chars) rest := by
  induction chars generalizing word with
  | nil => simp
  | cons c chars ih =>
    simp only [List.mem_cons, not_or] at h
    simp [lineWords, Ne.symm h.1, ih _ h.2]

/-- R46: a digit is neither a space nor a semicolon, and reads back. -/
theorem hexDigit_reads : ∀ n < 16, hexDigit n ≠ ' ' ∧ hexDigit n ≠ ';' ∧ hexValue (hexDigit n) = some n := by decide

/-- R46: a byte's two digits hold no space and no semicolon, and read back. -/
theorem hexByte_reads (b : Byte) :
    ' ' ∉ hexByte b ∧ ';' ∉ hexByte b ∧ hexByte b ≠ [] ∧ readByte (hexByte b) = some b := by
  have hb := b.isLt
  obtain ⟨hs, hc, hr⟩ := hexDigit_reads (b.toNat / 16) (by omega)
  obtain ⟨ls, lc, lr⟩ := hexDigit_reads (b.toNat % 16) (by omega)
  refine ⟨by simp [hexByte, Ne.symm hs, Ne.symm ls], by simp [hexByte, Ne.symm hc, Ne.symm lc], by simp [hexByte], ?_⟩
  simp only [hexByte, readByte, hr, lr]
  congr 1
  apply BitVec.eq_of_toNat_eq
  simp
  omega

end Sys2Proof.Machine
end

