-- ==== Sys2Proof/Laws/Calc.lean ====
section
/-! SUPPORT. Evaluations and primitives: the value and the flag of each, and what a narrowed result is as a number. -/

namespace Sys2Proof.Machine

section Bind
variable {α β : Type}

@[simp] theorem noPrimitive_value (a : α) : (noPrimitive a).value = a := rfl
@[simp] theorem noPrimitive_ovf (a : α) : (noPrimitive a).ovf = false := rfl
@[simp] theorem next_value (c : Calc α) (f : α → Calc β) : (c.next f).value = (f c.value).value := rfl
@[simp] theorem next_ovf (c : Calc α) (f : α → Calc β) : (c.next f).ovf = (c.ovf || (f c.value).ovf) := rfl

end Bind

@[simp] theorem narrowS_value (n : Nat) (x : Int) : (narrowS n x).value = BitVec.ofInt n x := rfl
@[simp] theorem narrowS_ovf (n : Nat) (x : Int) : (narrowS n x).ovf = !fitsS n x := rfl
@[simp] theorem narrowU_value (n : Nat) (x : Int) : (narrowU n x).value = BitVec.ofInt n x := rfl
@[simp] theorem narrowU_ovf (n : Nat) (x : Int) : (narrowU n x).ovf = !fitsU n x := rfl

theorem fitsS_iff (n : Nat) (x : Int) : fitsS n x = true ↔ -2 ^ (n - 1) ≤ x ∧ x < 2 ^ (n - 1) := by
  simp [fitsS]

theorem fitsU_iff (n : Nat) (x : Int) : fitsU n x = true ↔ 0 ≤ x ∧ x < 2 ^ n := by
  simp [fitsU]

/-- R49: where the exact result fits a signed type, the narrowed pattern is that number. -/
theorem toInt_ofInt_of_fitsS {n : Nat} (hn : 0 < n) {x : Int} (h : fitsS n x = true) :
    (BitVec.ofInt n x).toInt = x := by
  obtain ⟨lo, hi⟩ := (fitsS_iff n x).1 h
  have hpow : (2 : Int) ^ n = 2 * 2 ^ (n - 1) := by
    obtain ⟨m, rfl⟩ : ∃ m, n = m + 1 := ⟨n - 1, by omega⟩
    simp [pow_succ, mul_comm]
  rw [BitVec.toInt_ofInt]
  apply Int.bmod_eq_of_le <;> push_cast <;> omega

/-- R49: where the exact result fits an unsigned type, the narrowed pattern is that number. -/
theorem toNat_ofInt_of_fitsU {n : Nat} {x : Int} (h : fitsU n x = true) :
    ((BitVec.ofInt n x).toNat : Int) = x := by
  obtain ⟨lo, hi⟩ := (fitsU_iff n x).1 h
  rw [BitVec.toNat_ofInt, Int.toNat_of_nonneg (Int.emod_nonneg _ (by positivity))]
  exact Int.emod_eq_of_lt lo (by exact_mod_cast hi)

/-- R49: the narrowed pattern is congruent to the exact result, whether or not it fits. -/
theorem ofInt_congr (n : Nat) (x : Int) : ((BitVec.ofInt n x).toNat : Int) = x % 2 ^ n := by
  rw [BitVec.toNat_ofInt, Int.toNat_of_nonneg (Int.emod_nonneg _ (by positivity))]
  push_cast
  rfl

/-- R49: an evaluation that narrowed to a signed type without `ovf` is exact. -/
theorem narrowS_exact {n : Nat} (hn : 0 < n) {x : Int} (h : (narrowS n x).ovf = false) :
    (narrowS n x).value.toInt = x := toInt_ofInt_of_fitsS hn (by simpa using h)

/-- R49: an evaluation that narrowed to an unsigned type without `ovf` is exact. -/
theorem narrowU_exact {n : Nat} {x : Int} (h : (narrowU n x).ovf = false) :
    ((narrowU n x).value.toNat : Int) = x := toNat_ofInt_of_fitsU (by simpa using h)

/-- R49: a signed narrowing does not set `ovf` exactly where the exact result fits. -/
theorem narrowS_ovf_eq_false {n : Nat} {x : Int} :
    (narrowS n x).ovf = false ↔ -2 ^ (n - 1) ≤ x ∧ x < 2 ^ (n - 1) := by
  rw [← fitsS_iff]
  simp

/-- R49: an unsigned narrowing does not set `ovf` exactly where the exact result fits. -/
theorem narrowU_ovf_eq_false {n : Nat} {x : Int} : (narrowU n x).ovf = false ↔ 0 ≤ x ∧ x < 2 ^ n := by
  rw [← fitsU_iff]
  simp

/-- R8: the range of an `s32`. -/
theorem toInt_s32_range (a : S32) : -2147483648 ≤ a.toInt ∧ a.toInt ≤ 2147483647 := by
  have h1 := BitVec.le_toInt a
  have h2 := BitVec.toInt_lt (x := a)
  norm_num at h1 h2
  omega

/-- R8: the range of an `s64`. -/
theorem toInt_s64_range (a : S64) : -9223372036854775808 ≤ a.toInt ∧ a.toInt ≤ 9223372036854775807 := by
  have h1 := BitVec.le_toInt a
  have h2 := BitVec.toInt_lt (x := a)
  norm_num at h1 h2
  omega

/-- R56: a nonzero divisor is the only case the hardware evaluates. -/
theorem sdiv64_of_ne {a b : S64} (h : b ≠ 0#64) : sdiv64 a b = narrowS 64 (a.toInt.tdiv b.toInt) := if_neg h

/-- R53: a nonzero divisor is the only case the hardware evaluates. -/
theorem divu32_of_ne {a b : U32} (h : b ≠ 0#32) :
    divu32 a b = narrowU 32 ((a.toNat : Int) / (b.toNat : Int)) := if_neg h

/-- R62, R63: a coefficient read unsigned is the number of its word. -/
theorem coef32_toInt_unsigned (cal : Cal) {c : Coef} (h : coefUnsigned c = true) :
    (coef32 cal c).toInt = (coefWord cal c).toNat := by
  have := (coefWord cal c).isLt
  simp [coef32, h, BitVec.toInt_setWidth, Int.bmod]
  omega

/-- R62, R63: a coefficient read signed is the signed number of its word. -/
theorem coef32_toInt_signed (cal : Cal) {c : Coef} (h : coefUnsigned c = false) :
    (coef32 cal c).toInt = (coefWord cal c).toInt := by
  simp [coef32, h, BitVec.toInt_signExtend_of_le]

/-- R55: sign extension keeps the number. -/
@[simp] theorem sext64_toInt (a : S32) : (sext64 a).toInt = a.toInt := by
  simp [sext64, BitVec.toInt_signExtend_of_le]

end Sys2Proof.Machine
end

