-- ==== Sys2Proof/Laws/Decode.lean ====
section
/-! SUPPORT. The opcode map and the decoder: no two rows select the same byte, and what the row of each operation is. -/

namespace Sys2Proof

/-- R41: no command byte selects two rows. -/
theorem opcodeMap_no_overlap :
    opcodeMap.Pairwise fun r q => r.pattern &&& (r.mask &&& q.mask) ≠ q.pattern &&& (r.mask &&& q.mask) := by
  decide

/-- R39, R44: the length fixed by a row's command byte is that of the row's format. -/
theorem requestLength_format : ∀ r ∈ opcodeMap, requestLength r.pattern = formatLength r.format := by decide

/-- A payload followed by anything is taken whole, and what follows is left. -/
theorem takeBuf_toList_append {n : Nat} (buf : Vector Byte n) (rest : List Byte) :
    takeBuf n (buf.toList ++ rest) = some (buf, rest) := by
  have h : buf.toList.length = n := by simp
  have ht : (buf.toList ++ rest).take n = buf.toList := List.take_left' h
  have hd : (buf.toList ++ rest).drop n = rest := List.drop_left' h
  unfold takeBuf
  rw [dif_pos (by rw [ht]; exact h)]
  simp only [hd]
  congr 2
  apply Vector.toArray_inj.1
  simp only [ht]
  exact Array.toArray_toList

/-- R41: the byte of `RDTC i` selects the row of `RDTC`, whatever `i`. -/
theorem selectRow_rdtc (idx : BitVec 4) : selectRow (cmdByte idx 6#3) = some ⟨.rdtc, .x, 0x06#8, 0x0F#8⟩ := by
  revert idx
  decide

/-- R41: the byte of `RDPC i` selects the row of `RDPC`, whatever `i`. -/
theorem selectRow_rdpc (idx : BitVec 4) : selectRow (cmdByte idx 7#3) = some ⟨.rdpc, .x, 0x07#8, 0x0F#8⟩ := by
  revert idx
  decide

/-- R40: the index field of a command byte is the index it was made from. -/
theorem cmdIdx_cmdByte (idx : BitVec 4) (op : BitVec 3) : cmdIdx (cmdByte idx op) = idx := by
  revert idx op
  decide

/-- The bytes a payload was taken from are that payload and what was left. -/
theorem takeBuf_inv {n : Nat} {bytes rest : List Byte} {buf : Vector Byte n}
    (h : takeBuf n bytes = some (buf, rest)) : bytes = buf.toList ++ rest := by
  unfold takeBuf at h
  split at h
  · simp only [Option.some.injEq, Prod.mk.injEq] at h
    obtain ⟨rfl, rfl⟩ := h
    exact (List.take_append_drop n bytes).symm
  · cases h

/-- A payload is taken exactly when there are enough bytes, and as many are left as there were beyond it. -/
theorem takeBuf_of_le {n : Nat} {bytes : List Byte} (h : n ≤ bytes.length) :
    ∃ buf, takeBuf n bytes = some (buf, bytes.drop n) := by
  unfold takeBuf
  rw [dif_pos (by simp [h])]
  exact ⟨_, rfl⟩

theorem takeBuf_of_lt {n : Nat} {bytes : List Byte} (h : bytes.length < n) : takeBuf n bytes = none := by
  unfold takeBuf
  rw [dif_neg (by simp; omega)]

/-- R41: a byte that selects a row is that row's command byte. -/
theorem selectRow_inv {cmd : Byte} {row : OpRow} (h : selectRow cmd = some row) :
    (row.op = .ldcal ∧ cmd = cmdByte 0#4 1#3) ∨ (row.op = .ldraw ∧ cmd = cmdByte 0#4 2#3) ∨
    (row.op = .tcomp ∧ cmd = cmdByte 0#4 3#3) ∨ (row.op = .pcomp32 ∧ cmd = cmdByte 0#4 4#3) ∨
    (row.op = .pcomp64 ∧ cmd = cmdByte 0#4 5#3) ∨ (row.op = .rdtc ∧ cmd = cmdByte (cmdIdx cmd) 6#3) ∨
    (row.op = .rdpc ∧ cmd = cmdByte (cmdIdx cmd) 7#3) := by
  have hm := List.mem_of_find?_eq_some h
  have hp := List.find?_some h
  simp only [opcodeMap, List.mem_cons, List.not_mem_nil, or_false] at hm
  rcases hm with rfl | rfl | rfl | rfl | rfl | rfl | rfl <;> revert cmd <;> decide

end Sys2Proof
end

