-- ==== Sys2Proof/Laws/State.lean ====
section
/-! SUPPORT. What each named update of Machine/Ops.lean leaves in each field of the state: one lemma per field per update,
so that no later proof unfolds a record update. -/

namespace Sys2Proof.Machine

variable (s : State)

@[simp] theorem raise_cal (f : FaultCause) : (raise f s).cal = s.cal := rfl
@[simp] theorem raise_raw (f : FaultCause) : (raise f s).raw = s.raw := rfl
@[simp] theorem raise_temp (f : FaultCause) : (raise f s).temp = s.temp := rfl
@[simp] theorem raise_pPa (f : FaultCause) : (raise f s).pPa = s.pPa := rfl
@[simp] theorem raise_pQ8 (f : FaultCause) : (raise f s).pQ8 = s.pQ8 := rfl
@[simp] theorem raise_coef (f : FaultCause) : (raise f s).coef = s.coef := rfl
@[simp] theorem raise_ovf (f : FaultCause) : (raise f s).ovf = s.ovf := rfl
@[simp] theorem raise_err (f : FaultCause) : (raise f s).err = true := rfl
@[simp] theorem raise_ecause (f : FaultCause) : (raise f s).ecause = faultCode f := rfl
@[simp] theorem raise_port (f : FaultCause) : (raise f s).port = s.port := rfl

@[simp] theorem loadCal_cal (cal : Cal) : (loadCal cal s).cal = some cal := rfl
@[simp] theorem loadCal_raw (cal : Cal) : (loadCal cal s).raw = s.raw := rfl
@[simp] theorem loadCal_temp (cal : Cal) : (loadCal cal s).temp = s.temp := rfl
@[simp] theorem loadCal_pPa (cal : Cal) : (loadCal cal s).pPa = s.pPa := rfl
@[simp] theorem loadCal_pQ8 (cal : Cal) : (loadCal cal s).pQ8 = s.pQ8 := rfl
@[simp] theorem loadCal_coef (cal : Cal) : (loadCal cal s).coef = s.coef := rfl
@[simp] theorem loadCal_ovf (cal : Cal) : (loadCal cal s).ovf = s.ovf := rfl
@[simp] theorem loadCal_err (cal : Cal) : (loadCal cal s).err = s.err := rfl
@[simp] theorem loadCal_ecause (cal : Cal) : (loadCal cal s).ecause = s.ecause := rfl
@[simp] theorem loadCal_port (cal : Cal) : (loadCal cal s).port = s.port := rfl

@[simp] theorem loadRaw_cal (raw : RawPair) : (loadRaw raw s).cal = s.cal := rfl
@[simp] theorem loadRaw_raw (raw : RawPair) : (loadRaw raw s).raw = some raw := rfl
@[simp] theorem loadRaw_temp (raw : RawPair) : (loadRaw raw s).temp = none := rfl
@[simp] theorem loadRaw_pPa (raw : RawPair) : (loadRaw raw s).pPa = none := rfl
@[simp] theorem loadRaw_pQ8 (raw : RawPair) : (loadRaw raw s).pQ8 = none := rfl
@[simp] theorem loadRaw_coef (raw : RawPair) : (loadRaw raw s).coef = s.coef := rfl
@[simp] theorem loadRaw_ovf (raw : RawPair) : (loadRaw raw s).ovf = s.ovf := rfl
@[simp] theorem loadRaw_err (raw : RawPair) : (loadRaw raw s).err = s.err := rfl
@[simp] theorem loadRaw_ecause (raw : RawPair) : (loadRaw raw s).ecause = s.ecause := rfl
@[simp] theorem loadRaw_port (raw : RawPair) : (loadRaw raw s).port = s.port := rfl

@[simp] theorem writeTemp_cal (temp : TempPair) (ovf : Bool) : (writeTemp temp ovf s).cal = s.cal := rfl
@[simp] theorem writeTemp_raw (temp : TempPair) (ovf : Bool) : (writeTemp temp ovf s).raw = s.raw := rfl
@[simp] theorem writeTemp_temp (temp : TempPair) (ovf : Bool) : (writeTemp temp ovf s).temp = some temp := rfl
@[simp] theorem writeTemp_pPa (temp : TempPair) (ovf : Bool) : (writeTemp temp ovf s).pPa = s.pPa := rfl
@[simp] theorem writeTemp_pQ8 (temp : TempPair) (ovf : Bool) : (writeTemp temp ovf s).pQ8 = s.pQ8 := rfl
@[simp] theorem writeTemp_coef (temp : TempPair) (ovf : Bool) : (writeTemp temp ovf s).coef = s.coef := rfl
@[simp] theorem writeTemp_ovf (temp : TempPair) (ovf : Bool) : (writeTemp temp ovf s).ovf = (s.ovf || ovf) := rfl
@[simp] theorem writeTemp_err (temp : TempPair) (ovf : Bool) : (writeTemp temp ovf s).err = s.err := rfl
@[simp] theorem writeTemp_ecause (temp : TempPair) (ovf : Bool) : (writeTemp temp ovf s).ecause = s.ecause := rfl
@[simp] theorem writeTemp_port (temp : TempPair) (ovf : Bool) : (writeTemp temp ovf s).port = s.port := rfl

@[simp] theorem writePPa_cal (p : U32) (ovf : Bool) : (writePPa p ovf s).cal = s.cal := rfl
@[simp] theorem writePPa_raw (p : U32) (ovf : Bool) : (writePPa p ovf s).raw = s.raw := rfl
@[simp] theorem writePPa_temp (p : U32) (ovf : Bool) : (writePPa p ovf s).temp = s.temp := rfl
@[simp] theorem writePPa_pPa (p : U32) (ovf : Bool) : (writePPa p ovf s).pPa = some p := rfl
@[simp] theorem writePPa_pQ8 (p : U32) (ovf : Bool) : (writePPa p ovf s).pQ8 = s.pQ8 := rfl
@[simp] theorem writePPa_coef (p : U32) (ovf : Bool) : (writePPa p ovf s).coef = s.coef := rfl
@[simp] theorem writePPa_ovf (p : U32) (ovf : Bool) : (writePPa p ovf s).ovf = (s.ovf || ovf) := rfl
@[simp] theorem writePPa_err (p : U32) (ovf : Bool) : (writePPa p ovf s).err = s.err := rfl
@[simp] theorem writePPa_ecause (p : U32) (ovf : Bool) : (writePPa p ovf s).ecause = s.ecause := rfl
@[simp] theorem writePPa_port (p : U32) (ovf : Bool) : (writePPa p ovf s).port = s.port := rfl

@[simp] theorem writePQ8_cal (p : U32) (ovf : Bool) : (writePQ8 p ovf s).cal = s.cal := rfl
@[simp] theorem writePQ8_raw (p : U32) (ovf : Bool) : (writePQ8 p ovf s).raw = s.raw := rfl
@[simp] theorem writePQ8_temp (p : U32) (ovf : Bool) : (writePQ8 p ovf s).temp = s.temp := rfl
@[simp] theorem writePQ8_pPa (p : U32) (ovf : Bool) : (writePQ8 p ovf s).pPa = s.pPa := rfl
@[simp] theorem writePQ8_pQ8 (p : U32) (ovf : Bool) : (writePQ8 p ovf s).pQ8 = some p := rfl
@[simp] theorem writePQ8_coef (p : U32) (ovf : Bool) : (writePQ8 p ovf s).coef = s.coef := rfl
@[simp] theorem writePQ8_ovf (p : U32) (ovf : Bool) : (writePQ8 p ovf s).ovf = (s.ovf || ovf) := rfl
@[simp] theorem writePQ8_err (p : U32) (ovf : Bool) : (writePQ8 p ovf s).err = s.err := rfl
@[simp] theorem writePQ8_ecause (p : U32) (ovf : Bool) : (writePQ8 p ovf s).ecause = s.ecause := rfl
@[simp] theorem writePQ8_port (p : U32) (ovf : Bool) : (writePQ8 p ovf s).port = s.port := rfl

@[simp] theorem writeCoef_cal (v : S32) : (writeCoef v s).cal = s.cal := rfl
@[simp] theorem writeCoef_raw (v : S32) : (writeCoef v s).raw = s.raw := rfl
@[simp] theorem writeCoef_temp (v : S32) : (writeCoef v s).temp = s.temp := rfl
@[simp] theorem writeCoef_pPa (v : S32) : (writeCoef v s).pPa = s.pPa := rfl
@[simp] theorem writeCoef_pQ8 (v : S32) : (writeCoef v s).pQ8 = s.pQ8 := rfl
@[simp] theorem writeCoef_coef (v : S32) : (writeCoef v s).coef = some v := rfl
@[simp] theorem writeCoef_ovf (v : S32) : (writeCoef v s).ovf = s.ovf := rfl
@[simp] theorem writeCoef_err (v : S32) : (writeCoef v s).err = s.err := rfl
@[simp] theorem writeCoef_ecause (v : S32) : (writeCoef v s).ecause = s.ecause := rfl
@[simp] theorem writeCoef_port (v : S32) : (writeCoef v s).port = s.port := rfl

@[simp] theorem setPort_cal (port : List HostEvent) : (setPort port s).cal = s.cal := rfl
@[simp] theorem setPort_raw (port : List HostEvent) : (setPort port s).raw = s.raw := rfl
@[simp] theorem setPort_temp (port : List HostEvent) : (setPort port s).temp = s.temp := rfl
@[simp] theorem setPort_pPa (port : List HostEvent) : (setPort port s).pPa = s.pPa := rfl
@[simp] theorem setPort_pQ8 (port : List HostEvent) : (setPort port s).pQ8 = s.pQ8 := rfl
@[simp] theorem setPort_coef (port : List HostEvent) : (setPort port s).coef = s.coef := rfl
@[simp] theorem setPort_ovf (port : List HostEvent) : (setPort port s).ovf = s.ovf := rfl
@[simp] theorem setPort_err (port : List HostEvent) : (setPort port s).err = s.err := rfl
@[simp] theorem setPort_ecause (port : List HostEvent) : (setPort port s).ecause = s.ecause := rfl
@[simp] theorem setPort_port (port : List HostEvent) : (setPort port s).port = port := rfl

@[simp] theorem assertReset_cal : (assertReset s).cal = none := rfl
@[simp] theorem assertReset_raw : (assertReset s).raw = none := rfl
@[simp] theorem assertReset_temp : (assertReset s).temp = none := rfl
@[simp] theorem assertReset_pPa : (assertReset s).pPa = none := rfl
@[simp] theorem assertReset_pQ8 : (assertReset s).pQ8 = none := rfl
@[simp] theorem assertReset_coef : (assertReset s).coef = none := rfl
@[simp] theorem assertReset_ovf : (assertReset s).ovf = false := rfl
@[simp] theorem assertReset_err : (assertReset s).err = false := rfl
@[simp] theorem assertReset_ecause : (assertReset s).ecause = 0#3 := rfl
@[simp] theorem assertReset_port : (assertReset s).port = s.port := rfl

@[simp] theorem reset_cal : State.reset.cal = none := rfl
@[simp] theorem reset_raw : State.reset.raw = none := rfl
@[simp] theorem reset_temp : State.reset.temp = none := rfl
@[simp] theorem reset_pPa : State.reset.pPa = none := rfl
@[simp] theorem reset_pQ8 : State.reset.pQ8 = none := rfl
@[simp] theorem reset_coef : State.reset.coef = none := rfl
@[simp] theorem reset_ovf : State.reset.ovf = false := rfl
@[simp] theorem reset_err : State.reset.err = false := rfl
@[simp] theorem reset_ecause : State.reset.ecause = 0#3 := rfl
@[simp] theorem reset_port : State.reset.port = [] := rfl

@[simp] theorem setPort_self : setPort s.port s = s := rfl

@[simp] theorem setPort_setPort (p q : List HostEvent) : setPort p (setPort q s) = setPort p s := rfl

end Sys2Proof.Machine
end

