-- ==== Sys2Proof/Laws/Ops.lean ====
section
/-! SUPPORT. What the shared operations of Machine/Ops.lean can do, once each: the checks and the way a request ends. -/

namespace Sys2Proof.Machine

/-- R98: while `ERR` = 1 a request changes nothing. -/
theorem perform_of_err {s : State} (h : s.err = true) (op : Except FaultCause State) :
    perform s op = .next s := by
  simp [perform, h]

/-- R96: with `ERR` = 0 and every check passed, the operation's effect. -/
theorem perform_ok {s : State} (h : s.err = false) (t : State) : perform s (.ok t) = .next t := by
  simp [perform, h]

/-- R96, R97: with `ERR` = 0 and a check failed, fault entry. -/
theorem perform_error {s : State} (h : s.err = false) (f : FaultCause) :
    perform s (.error f) = .next (raise f s) := by
  simp [perform, h]

/-- All the ways a request can end: ignored, faulted, or performed; never a stop of the model. -/
theorem perform_cases (s : State) (op : Except FaultCause State) :
    (s.err = true ∧ perform s op = .next s) ∨
    (s.err = false ∧ ∃ f, op = .error f ∧ perform s op = .next (raise f s)) ∨
    (s.err = false ∧ ∃ t, op = .ok t ∧ perform s op = .next t) := by
  cases h : s.err
  · cases op with
    | error f => exact .inr (.inl ⟨rfl, f, rfl, perform_error h f⟩)
    | ok t => exact .inr (.inr ⟨rfl, t, rfl, perform_ok h t⟩)
  · exact .inl ⟨rfl, perform_of_err h op⟩

theorem needCal_of_some {s : State} {cal : Cal} (h : s.cal = some cal) : needCal s = .ok cal := by simp [needCal, h]
theorem needCal_of_none {s : State} (h : s.cal = none) : needCal s = .error .noCal := by simp [needCal, h]
theorem needRaw_of_some {s : State} {raw : RawPair} (h : s.raw = some raw) : needRaw s = .ok raw := by
  simp [needRaw, h]
theorem needRaw_of_none {s : State} (h : s.raw = none) : needRaw s = .error .noRaw := by simp [needRaw, h]
theorem needFine_of_some {s : State} {temp : TempPair} (h : s.temp = some temp) : needFine s = .ok temp.tFine := by
  simp [needFine, h]
theorem needFine_of_none {s : State} (h : s.temp = none) : needFine s = .error .noFine := by simp [needFine, h]
theorem needNoCal_of_some {s : State} {cal : Cal} (h : s.cal = some cal) : needNoCal s = .error .calLocked := by
  simp [needNoCal, h]
theorem needNoCal_of_none {s : State} (h : s.cal = none) : needNoCal s = .ok () := by simp [needNoCal, h]

/-- R90: the codes are 1 to 5. -/
theorem faultCode_range (f : FaultCause) : 1 ≤ (faultCode f).toNat ∧ (faultCode f).toNat ≤ 5 := by
  cases f <;> decide

/-- A meaning is `perform` of the checks and the effect its rule writes out. -/
theorem exec_eq_perform (i : Instr) (s : State) : ∃ op, exec i s = perform s op := by
  cases i with
  | ldraw buf => exact ⟨.ok (loadRaw (fRaw buf) s), rfl⟩
  | _ => exact ⟨_, rfl⟩

/-- No operation stops the model: every request that reaches `exec` has a next state. -/
theorem exec_next (i : Instr) (s : State) : ∃ t, exec i s = .next t := by
  obtain ⟨op, h⟩ := exec_eq_perform i s
  rcases perform_cases s op with ⟨-, hp⟩ | ⟨-, f, -, hp⟩ | ⟨-, t, -, hp⟩
  · exact ⟨s, h.trans hp⟩
  · exact ⟨_, h.trans hp⟩
  · exact ⟨t, h.trans hp⟩

/-- R98, for every operation. -/
theorem exec_of_err {s : State} (h : s.err = true) (i : Instr) : exec i s = .next s := by
  obtain ⟨op, ho⟩ := exec_eq_perform i s
  rw [ho, perform_of_err h]

end Sys2Proof.Machine
end

