-- ==== Sys2Proof/Laws/Exec.lean ====
section
/-! SUPPORT. Each operation's checks and effect as one equation, and everything an operation can do as one lemma:
ignored, faulted, or one of seven effects. -/

namespace Sys2Proof.Machine

theorem exec_ldcal (buf : CalBuf) (s : State) :
    exec (.ldcal buf) s =
      if s.err then .next s
      else if s.cal.isSome then .next (raise .calLocked s)
      else .next (loadCal (fParse buf) s) := by
  cases he : s.err <;> cases hc : s.cal <;>
    simp [exec, execLdcal, perform, he, hc, needNoCal, bind, Except.bind, pure, Except.pure]

theorem exec_ldraw (m : MeasBuf) (s : State) :
    exec (.ldraw m) s = if s.err then .next s else .next (loadRaw (fRaw m) s) := by
  cases he : s.err <;> simp [exec, execLdraw, perform, he]

theorem exec_tcomp (s : State) :
    exec .tcomp s =
      if s.err then .next s
      else
        match s.cal, s.raw with
        | none, _ => .next (raise .noCal s)
        | some _, none => .next (raise .noRaw s)
        | some cal, some raw =>
          .next (writeTemp (temperature raw.rawT cal).value (temperature raw.rawT cal).ovf s) := by
  cases he : s.err <;> cases hc : s.cal <;> cases hr : s.raw <;>
    simp [exec, execTcomp, perform, he, hc, hr, needCal, needRaw, bind, Except.bind, pure, Except.pure]

theorem exec_pcomp32 (s : State) :
    exec .pcomp32 s =
      if s.err then .next s
      else
        match s.cal, s.raw, s.temp with
        | none, _, _ => .next (raise .noCal s)
        | some _, none, _ => .next (raise .noRaw s)
        | some _, some _, none => .next (raise .noFine s)
        | some cal, some raw, some temp =>
          .next (writePPa (fP32 Config.p32Threshold raw.rawP temp.tFine cal).value
            (fP32 Config.p32Threshold raw.rawP temp.tFine cal).ovf s) := by
  cases he : s.err <;> cases hc : s.cal <;> cases hr : s.raw <;> cases ht : s.temp <;>
    simp [exec, execPcomp32, perform, he, hc, hr, ht, needCal, needRaw, needFine, bind, Except.bind, pure, Except.pure]

theorem exec_pcomp64 (s : State) :
    exec .pcomp64 s =
      if s.err then .next s
      else
        match s.cal, s.raw, s.temp with
        | none, _, _ => .next (raise .noCal s)
        | some _, none, _ => .next (raise .noRaw s)
        | some _, some _, none => .next (raise .noFine s)
        | some cal, some raw, some temp =>
          .next (writePQ8 (fP64 raw.rawP temp.tFine cal).value (fP64 raw.rawP temp.tFine cal).ovf s) := by
  cases he : s.err <;> cases hc : s.cal <;> cases hr : s.raw <;> cases ht : s.temp <;>
    simp [exec, execPcomp64, perform, he, hc, hr, ht, needCal, needRaw, needFine, bind, Except.bind, pure, Except.pure]

theorem exec_rdtc (idx : BitVec 4) (s : State) :
    exec (.rdtc idx) s =
      if s.err then .next s
      else
        match tCoef idx, s.cal with
        | none, _ => .next (raise .illegalOp s)
        | some _, none => .next (raise .noCal s)
        | some c, some cal => .next (writeCoef (coef32 cal c) s) := by
  cases he : s.err <;> cases hi : tCoef idx <;> cases hc : s.cal <;>
    simp [exec, execRdtc, perform, he, hc, hi, needCoef, needCal, bind, Except.bind, pure, Except.pure]

theorem exec_rdpc (idx : BitVec 4) (s : State) :
    exec (.rdpc idx) s =
      if s.err then .next s
      else
        match pCoef idx, s.cal with
        | none, _ => .next (raise .illegalOp s)
        | some _, none => .next (raise .noCal s)
        | some c, some cal => .next (writeCoef (coef32 cal c) s) := by
  cases he : s.err <;> cases hi : pCoef idx <;> cases hc : s.cal <;>
    simp [exec, execRdpc, perform, he, hc, hi, needCoef, needCal, bind, Except.bind, pure, Except.pure]

/-- Everything an operation that answers `t` can have done. -/
theorem exec_cases {i : Instr} {s t : State} (h : exec i s = .next t) :
    (s.err = true ∧ t = s) ∨
    (s.err = false ∧ ∃ f, t = raise f s) ∨
    (s.err = false ∧ ∃ buf, i = .ldcal buf ∧ s.cal = none ∧ t = loadCal (fParse buf) s) ∨
    (s.err = false ∧ ∃ m, i = .ldraw m ∧ t = loadRaw (fRaw m) s) ∨
    (s.err = false ∧ i = .tcomp ∧ ∃ cal raw, s.cal = some cal ∧ s.raw = some raw ∧
      t = writeTemp (temperature raw.rawT cal).value (temperature raw.rawT cal).ovf s) ∨
    (s.err = false ∧ i = .pcomp32 ∧ ∃ cal raw temp, s.cal = some cal ∧ s.raw = some raw ∧ s.temp = some temp ∧
      t = writePPa (fP32 Config.p32Threshold raw.rawP temp.tFine cal).value
        (fP32 Config.p32Threshold raw.rawP temp.tFine cal).ovf s) ∨
    (s.err = false ∧ i = .pcomp64 ∧ ∃ cal raw temp, s.cal = some cal ∧ s.raw = some raw ∧ s.temp = some temp ∧
      t = writePQ8 (fP64 raw.rawP temp.tFine cal).value (fP64 raw.rawP temp.tFine cal).ovf s) ∨
    (s.err = false ∧ ∃ idx c cal,
      (i = .rdtc idx ∧ tCoef idx = some c ∨ i = .rdpc idx ∧ pCoef idx = some c) ∧ s.cal = some cal ∧
      t = writeCoef (coef32 cal c) s) := by
  cases he : s.err with
  | true =>
    rw [exec_of_err he] at h
    exact .inl ⟨rfl, by simpa using h.symm⟩
  | false =>
    right
    cases i with
    | ldcal buf =>
      rw [exec_ldcal, he] at h
      cases hc : s.cal <;> simp [hc] at h <;> subst h
      · exact .inr (.inl ⟨rfl, buf, rfl, rfl, rfl⟩)
      · exact .inl ⟨rfl, _, rfl⟩
    | ldraw m =>
      rw [exec_ldraw, he] at h
      simp at h
      exact .inr (.inr (.inl ⟨rfl, m, rfl, h.symm⟩))
    | tcomp =>
      rw [exec_tcomp, he] at h
      cases hc : s.cal <;> cases hr : s.raw <;> simp [hc, hr] at h <;> subst h
      case some.some => exact .inr (.inr (.inr (.inl ⟨rfl, rfl, _, _, rfl, rfl, rfl⟩)))
      all_goals exact .inl ⟨rfl, _, rfl⟩
    | pcomp32 =>
      rw [exec_pcomp32, he] at h
      cases hc : s.cal <;> cases hr : s.raw <;> cases ht : s.temp <;> simp [hc, hr, ht] at h <;> subst h
      case some.some.some => exact .inr (.inr (.inr (.inr (.inl ⟨rfl, rfl, _, _, _, rfl, rfl, rfl, rfl⟩))))
      all_goals exact .inl ⟨rfl, _, rfl⟩
    | pcomp64 =>
      rw [exec_pcomp64, he] at h
      cases hc : s.cal <;> cases hr : s.raw <;> cases ht : s.temp <;> simp [hc, hr, ht] at h <;> subst h
      case some.some.some =>
        exact .inr (.inr (.inr (.inr (.inr (.inl ⟨rfl, rfl, _, _, _, rfl, rfl, rfl, rfl⟩)))))
      all_goals exact .inl ⟨rfl, _, rfl⟩
    | rdtc idx =>
      rw [exec_rdtc, he] at h
      cases hi : tCoef idx <;> cases hc : s.cal <;> simp [hc, hi] at h <;> subst h
      case some.some =>
        exact .inr (.inr (.inr (.inr (.inr (.inr ⟨rfl, _, _, _, .inl ⟨rfl, hi⟩, rfl, rfl⟩)))))
      all_goals exact .inl ⟨rfl, _, rfl⟩
    | rdpc idx =>
      rw [exec_rdpc, he] at h
      cases hi : pCoef idx <;> cases hc : s.cal <;> simp [hc, hi] at h <;> subst h
      case some.some =>
        exact .inr (.inr (.inr (.inr (.inr (.inr ⟨rfl, _, _, _, .inr ⟨rfl, hi⟩, rfl, rfl⟩)))))
      all_goals exact .inl ⟨rfl, _, rfl⟩

/-- R41: the index names a coefficient exactly when the request is well formed. -/
theorem wellFormed_rdtc : ∀ idx, (Instr.rdtc idx).wellFormed = (tCoef idx).isSome := by decide

/-- R41: the index names a coefficient exactly when the request is well formed. -/
theorem wellFormed_rdpc : ∀ idx, (Instr.rdpc idx).wellFormed = (pCoef idx).isSome := by decide

/-- R90: no cause code is 0. -/
@[simp] theorem faultCode_ne_zero (f : FaultCause) : faultCode f ≠ 0#3 := by cases f <;> decide

end Sys2Proof.Machine
end

