-- ==== Sys2Proof/Laws/PerInstr.lean ====
section
/-! SUPPORT. A family of statements made once for each instruction, about the instruction as syntax. -/

/-- R39, R44: the encoding of a request is exactly as long as its command byte says. -/
def Sys2Proof.Laws.EncodedLength.Statement (i : Sys2Proof.Instr) : Prop :=
  ∃ cmd payload, Sys2Proof.encode i = cmd :: payload ∧
    (Sys2Proof.encode i).length = Sys2Proof.requestLength cmd

namespace Sys2Proof.Laws.EncodedLength

open Sys2Proof

theorem ldcal (buf : CalBuf) : Statement (.ldcal buf) := ⟨_, _, rfl, by simp [encode, requestLength, cmdByte]⟩

theorem ldraw (buf : MeasBuf) : Statement (.ldraw buf) := ⟨_, _, rfl, by simp [encode, requestLength, cmdByte]⟩

theorem tcomp : Statement .tcomp := ⟨_, _, rfl, by decide⟩

theorem pcomp32 : Statement .pcomp32 := ⟨_, _, rfl, by decide⟩

theorem pcomp64 : Statement .pcomp64 := ⟨_, _, rfl, by decide⟩

theorem rdtc (idx : BitVec 4) : Statement (.rdtc idx) := ⟨_, _, rfl, by revert idx; decide⟩

theorem rdpc (idx : BitVec 4) : Statement (.rdpc idx) := ⟨_, _, rfl, by revert idx; decide⟩

end Sys2Proof.Laws.EncodedLength
end

