-- ==== Sys2Proof/Laws/Step.lean ====
section
/-! SUPPORT. What one step can do, once: idle, a reset input, a request performed, an illegal command byte, a refusal. -/

namespace Sys2Proof.Machine

theorem step_idle {s : State} (h : s.port = []) : step s = .next s := by
  simp [step, takeEvent, h]

theorem step_reset {s : State} {port : List HostEvent} (h : s.port = .reset :: port) :
    step s = .next (assertReset (setPort port s)) := by
  simp [step, takeEvent, h]

theorem step_request {s : State} {bytes : List Byte} {port : List HostEvent} (h : s.port = .request bytes :: port) :
    step s = performRequest bytes (setPort port s) := by
  simp [step, takeEvent, h]

/-- R43, R98: what a request whose command byte selects no row can do. -/
theorem illegalRequest_cases {s t : State} (h : illegalRequest s = .next t) :
    (s.err = true ∧ t = s) ∨ (s.err = false ∧ t = raise .illegalOp s) := by
  cases he : s.err <;> simp [illegalRequest, perform, he] at h <;> simp [h]

/-- Everything a step that goes on can have done. -/
theorem step_cases {s t : State} (h : step s = .next t) :
    (s.port = [] ∧ t = s) ∨
    (∃ port, s.port = .reset :: port ∧ t = assertReset (setPort port s)) ∨
    (∃ bytes i port, s.port = .request bytes :: port ∧ decode bytes = .instr i [] ∧
      exec i (setPort port s) = .next t) ∨
    (∃ bytes cmd port, s.port = .request bytes :: port ∧ decode bytes = .illegalOp cmd [] ∧
      illegalRequest (setPort port s) = .next t) := by
  match hp : s.port with
  | [] =>
    rw [step_idle hp] at h
    exact .inl ⟨rfl, by simpa using h.symm⟩
  | .reset :: port =>
    rw [step_reset hp] at h
    exact .inr (.inl ⟨port, rfl, by simpa using h.symm⟩)
  | .request bytes :: port =>
    rw [step_request hp] at h
    unfold performRequest at h
    split at h
    case h_1 i hd => exact .inr (.inr (.inl ⟨bytes, i, port, rfl, hd, h⟩))
    case h_2 cmd hd => exact .inr (.inr (.inr ⟨bytes, cmd, port, rfl, hd, h⟩))
    all_goals cases h

end Sys2Proof.Machine
end

