-- ==== Sys2Proof/Laws/Runs.lean ====
section
/-! SUPPORT. What the host has still to present does not influence a request, and how runs compose. -/

namespace Sys2Proof.Machine

/-- What the host has still to present influences no operation. -/
theorem exec_setPort {i : Instr} {s t : State} (h : exec i s = .next t) (port : List HostEvent) :
    exec i (setPort port s) = .next (setPort port t) := by
  cases i with
  | ldcal _ =>
    rw [exec_ldcal] at *
    cases he : s.err <;> cases hc : s.cal <;> simp [he, hc] at h ⊢ <;> subst h <;> rfl
  | ldraw _ =>
    rw [exec_ldraw] at *
    cases he : s.err <;> simp [he] at h ⊢ <;> subst h <;> rfl
  | tcomp =>
    rw [exec_tcomp] at *
    cases he : s.err <;> cases hc : s.cal <;> cases hr : s.raw <;> simp [he, hc, hr] at h ⊢ <;> subst h <;> rfl
  | pcomp32 =>
    rw [exec_pcomp32] at *
    cases he : s.err <;> cases hc : s.cal <;> cases hr : s.raw <;> cases ht : s.temp <;>
      simp [he, hc, hr, ht] at h ⊢ <;> subst h <;> rfl
  | pcomp64 =>
    rw [exec_pcomp64] at *
    cases he : s.err <;> cases hc : s.cal <;> cases hr : s.raw <;> cases ht : s.temp <;>
      simp [he, hc, hr, ht] at h ⊢ <;> subst h <;> rfl
  | rdtc idx =>
    rw [exec_rdtc] at *
    cases he : s.err <;> cases hc : s.cal <;> cases hi : tCoef idx <;> simp [he, hc, hi] at h ⊢ <;> subst h <;> rfl
  | rdpc idx =>
    rw [exec_rdpc] at *
    cases he : s.err <;> cases hc : s.cal <;> cases hi : pCoef idx <;> simp [he, hc, hi] at h ⊢ <;> subst h <;> rfl

/-- What the host has still to present influences no request. -/
theorem performRequest_setPort {bytes : List Byte} {s t : State} (h : performRequest bytes s = .next t)
    (port : List HostEvent) : performRequest bytes (setPort port s) = .next (setPort port t) := by
  unfold performRequest at *
  split at h
  · exact exec_setPort h port
  · cases he : s.err <;> simp [illegalRequest, perform, he] at h ⊢ <;> subst h <;> rfl
  all_goals cases h

/-- A request takes nothing of what the host has still to present. -/
theorem performRequest_port {bytes : List Byte} {s t : State} (h : performRequest bytes s = .next t) :
    t.port = s.port := by
  have hp := performRequest_setPort h s.port
  rw [show setPort s.port s = s from rfl, h] at hp
  injection hp with ht
  rw [ht, setPort_port]

end Sys2Proof.Machine

namespace Sys2Proof.Safety

open Sys2Proof.Machine

theorem performEvents_succ {s t : State} (h : Machine.step s = .next t) (n : Nat) :
    performEvents (n + 1) s = performEvents n t := by
  simp [performEvents, h]

/-- Events performed one after the other can be cut anywhere. -/
theorem performEvents_add {m : Nat} : ∀ {s t : State}, performEvents m s = .next t → ∀ n,
    performEvents (m + n) s = performEvents n t := by
  induction m with
  | zero =>
    intro s t h n
    cases h
    rw [Nat.zero_add]
  | succ m ih =>
    intro s t h n
    rw [Nat.succ_add]
    simp only [performEvents] at h ⊢
    split at h
    · exact ih h n
    all_goals cases h

end Sys2Proof.Safety
end

