-- ==== Sys2Proof/Tests/Slice0.lean ====
section
/-! SUPPORT. Tests of the model. Expected results are the spec's own examples (the rules' `Example` lines and
95_test_vectors) or worked out by hand from the rule cited; then, for every statement with hypotheses, a concrete case
that meets them. -/

namespace Sys2Proof.Tests

open Sys2Proof.Machine Sys2Proof.Safety Sys2Proof.Claims

/-! ## The states and operands the tests use -/

/-- 95_test_vectors 1.1: the source's calibration block. -/
def docBuf : CalBuf :=
  #v[0x99, 0x6B, 0x29, 0x65, 0x32, 0x00, 0xAF, 0x92, 0x7E, 0xD6, 0xD0, 0x0B,
     0xC6, 0x22, 0xE2, 0xFE, 0xF9, 0xFF, 0x8C, 0x3C, 0xF8, 0xC6, 0x70, 0x17]

/-- 95_test_vectors 1.1: the source's measurement block. -/
def docMeas : MeasBuf := #v[0x4E, 0x54, 0x80, 0x8A, 0xBC, 0x40]

/-- The table of the source's block. -/
def docCal : Cal := sourceTable

/-- 95_test_vectors 2.3: a table of zeros. -/
def zeroCal : Cal := Vector.replicate 12 0#16

/-- 95_test_vectors program 1, after `LDCAL`. -/
def loaded : State := { State.reset with cal := some docCal }

/-- 95_test_vectors program 1, after `LDRAW`. -/
def sampled : State := { loaded with raw := some ⟨320840#20, 568260#20⟩ }

/-- 95_test_vectors program 1, after `TCOMP`. -/
def warm : State := { sampled with temp := some ⟨201633#32, 3938#32⟩ }

/-- 95_test_vectors program 1, at its end. -/
def finished : State := { warm with pPa := some 99795#32, pQ8 := some 25546993#32 }

/-- 95_test_vectors 10, first line: halted by `NoCal`. -/
def halted : State := { State.reset with err := true, ecause := 3#3 }

/-- 95_test_vectors 2.3, last row: a table of zeros and a raw temperature for which the square overflows. -/
def overflowing : State := { State.reset with cal := some zeroCal, raw := some ⟨0#20, 741456#20⟩ }

/-- 95_test_vectors 8.3, fifth row: `P6` = -32768, the rest 0, `fine` = 2147483647. -/
def overflowingPressure : State :=
  { State.reset with
    cal := some (zeroCal.set 8 0x8000#16), raw := some ⟨0#20, 0#20⟩, temp := some ⟨2147483647#32, 0#32⟩ }

/-- The state with one request presented. -/
def presenting (bytes : List Byte) (s : State) : State := setPort [.request bytes] s

/-! ## Well-formedness and decoding -/

/-- R43(d): index 0 is no index of `RDTC`. -/
theorem test_wellFormed_refuses_rdtc_0 : (Instr.rdtc 0).wellFormed = false := by decide

/-- R43(d): the first index above the range. -/
theorem test_wellFormed_refuses_rdtc_4 : (Instr.rdtc 4).wellFormed = false := by decide

/-- R43(e): index 0 is no index of `RDPC`. -/
theorem test_wellFormed_refuses_rdpc_0 : (Instr.rdpc 0).wellFormed = false := by decide

/-- R43(e): the first index above the range. -/
theorem test_wellFormed_refuses_rdpc_10 : (Instr.rdpc 10).wellFormed = false := by decide

/-- R41: the ends of both ranges. -/
theorem test_wellFormed_accepts_the_ends :
    (Instr.rdtc 1).wellFormed = true ∧ (Instr.rdtc 3).wellFormed = true ∧ (Instr.rdpc 1).wellFormed = true ∧
    (Instr.rdpc 9).wellFormed = true := by decide

/-- R41, R46, bit by bit: `idx` 0000, `rsv` 0, `op` 001, then 24 bytes. -/
theorem test_decode_ldcal : decode (0b00000001#8 :: docBuf.toList) = .instr (.ldcal docBuf) [] := by decide

/-- R41, R46: `op` 010, then 6 bytes; a byte after them is left over. -/
theorem test_decode_ldraw :
    decode [0b00000010#8, 0x4E, 0x54, 0x80, 0x8A, 0xBC, 0x40, 0x03] = .instr (.ldraw docMeas) [0x03] := by decide

/-- R41: `op` 011. -/
theorem test_decode_tcomp : decode [0b00000011#8] = .instr .tcomp [] := by decide

/-- R41: `op` 100. -/
theorem test_decode_pcomp32 : decode [0b00000100#8] = .instr .pcomp32 [] := by decide

/-- R41: `op` 101. -/
theorem test_decode_pcomp64 : decode [0b00000101#8] = .instr .pcomp64 [] := by decide

/-- R46: `RDTC 3` is the byte 36: `idx` 0011, `rsv` 0, `op` 110. -/
theorem test_decode_rdtc : decode [0b00110110#8] = .instr (.rdtc 3) [] := by decide

/-- R46: `RDPC 9` is the byte 97: `idx` 1001, `rsv` 0, `op` 111. -/
theorem test_decode_rdpc : decode [0b10010111#8] = .instr (.rdpc 9) [] := by decide

/-- R43(a), (b), (c): no row is selected. -/
theorem test_decode_rejects_by_name :
    decode [0x00] = .illegalOp 0x00 [] ∧ decode [0x0B] = .illegalOp 0x0B [] ∧ decode [0x13] = .illegalOp 0x13 [] ∧
    decode [0x02, 0x4E] = .shortPayload 0x02 ∧ decode [] = .noCommand := by decide

/-- The opcode table's words, as the host numbers them: only the command byte given, and the whole of `LDRAW` given. -/
theorem test_decodeTableWord :
    decodeTableWord 8 0x01 = some (.ldcal (Vector.replicate 24 0#8)) ∧ decodeTableWord 8 0x05 = some .pcomp64 ∧
    decodeTableWord 56 0x40BC8A80544E02 = some (.ldraw docMeas) ∧ decodeTableWord 8 0x13 = none := by decide

/-- The host's fetch: the very next step after reset performs the request. -/
theorem test_step_runs_the_table_word :
    step (State.reset.withFetchWord 56 0x40BC8A80544E02) =
      .next { State.reset with raw := some ⟨320840#20, 568260#20⟩ } := by rfl

/-- R105 and entry 1: the reset input gives the reset state and leaves what the host has still to present. -/
theorem test_step_reset : step { finished with port := [.reset, .request [0x03]] } =
    .next { State.reset with port := [.request [0x03]] } := by rfl

/-! ## One step of each instruction -/

/-- R64, its example. -/
theorem test_ldcal_loads : exec (.ldcal docBuf) State.reset = .next loaded := by rfl

/-- 95_test_vectors 10, `CalLocked` with identical bytes: `STATUS` 81, `ECAUSE` 2. -/
theorem test_ldcal_is_locked :
    exec (.ldcal docBuf) loaded = .next { loaded with err := true, ecause := 2#3 } := by rfl

/-- R69, its example; program 3, second `LDRAW`: the results of the sample before are gone. -/
theorem test_ldraw_drops_old_results : exec (.ldraw docMeas) finished = .next sampled := by rfl

/-- 95_test_vectors 7, fifth row: the byte order, the order of the two values, the ignored low nibble. -/
theorem test_ldraw_byte_order : fRaw #v[0x80, 0x00, 0x00, 0x12, 0x34, 0x56] = ⟨524288#20, 74565#20⟩ := by decide

/-- R73, its example. -/
theorem test_tcomp_temperature : temperature 568260#20 docCal = ⟨⟨201633#32, 3938#32⟩, false⟩ := by decide

/-- 95_test_vectors 2.1, 2.2: negative intermediates, where a logical shift would give 1994764. -/
theorem test_tcomp_negative : temperature 375936#20 docCal = ⟨⟨-102388#32, -2000#32⟩, false⟩ := by decide

/-- R81, its example. -/
theorem test_pcomp32_pressure :
    fP32 Config.p32Threshold 320840#20 201633#32 docCal = ⟨99795#32, false⟩ := by decide

/-- 95_test_vectors 8.1: the largest raw value in the upper branch; with the literal 2^31 it would be 8085. -/
theorem test_pcomp32_threshold : fP32 Config.p32Threshold 864497#20 201633#32 docCal = ⟨8084#32, false⟩ := by decide

/-- R87, its example. -/
theorem test_pcomp64_pressure : fP64 320840#20 201633#32 docCal = ⟨25546993#32, false⟩ := by decide

/-- 95_test_vectors 9.1, last row: a negative result keeps its low 32 bits and sets `ovf`. -/
theorem test_pcomp64_negative : fP64 1048575#20 201633#32 docCal = ⟨4289261835#32, true⟩ := by decide

/-- 95_test_vectors 6: `RDTC 1` is unsigned, `RDTC 2` signed, on the words 8000. -/
theorem test_rdtc_signedness :
    coef32 (Vector.replicate 12 0x8000#16) .t1 = 32768#32 ∧ coef32 (Vector.replicate 12 0x8000#16) .t2 = -32768#32 := by
  decide

/-- R65, its example. -/
theorem test_rdtc_reads : exec (.rdtc 3) loaded = .next { loaded with coef := some 50#32 } := by rfl

/-- R66, its examples. -/
theorem test_rdpc_reads : exec (.rdpc 2) loaded = .next { loaded with coef := some (-10626#32) } := by rfl

/-- R91: `RDPC 10` (byte A7) and R96: `IllegalOp` before `NoCal`. -/
theorem test_rdpc_illegal_index :
    exec (.rdpc 10) State.reset = .next { State.reset with err := true, ecause := 1#3 } := by rfl

/-! ## Primitives, at the ends of their ranges -/

/-- R50, R51, R52, their examples. -/
theorem test_signed_primitives :
    mul32 131071#32 32767#32 = ⟨-163839#32, true⟩ ∧ mul32 15942#32 25897#32 = ⟨412849974#32, false⟩ ∧
    shl32 1073741824#32 1 = ⟨-2147483648#32, true⟩ ∧ shl32 32767#32 16 = ⟨2147418112#32, false⟩ ∧
    asr32 (-1023872#32) 8 = ⟨-4000#32, false⟩ ∧ asr32 (-2#32) 8 = ⟨-1#32, false⟩ := by decide

/-- R53, R54, their examples. -/
theorem test_unsigned_primitives :
    mulu32 4294967295#32 3125#32 = ⟨4294964171#32, true⟩ ∧ divu32 1833146875#32 36712#32 = ⟨49933#32, false⟩ ∧
    lsr32 99866#32 3 = ⟨12483#32, false⟩ ∧ tou32 (-1#32) = ⟨4294967295#32, true⟩ ∧
    tos32 3666293750#32 = ⟨-628673546#32, true⟩ := by decide

/-- R55, R56, R57, their examples. -/
theorem test_wide_primitives :
    mul64 73633#64 73633#64 = ⟨5421818689#64, false⟩ ∧
    (mul64 4611136274702788609#64 (-32768#64)).ovf = true ∧
    asr64 (-95552103525000#64) 19 = ⟨-182251175#64, false⟩ ∧ sdiv64 (-7#64) 2#64 = ⟨-3#64, false⟩ ∧
    sdiv64 7#64 (-2#64) = ⟨-3#64, false⟩ ∧ sdiv64 (-9223372036854775808#64) (-1#64) = ⟨-9223372036854775808#64, true⟩ ∧
    tou32of64 933072596912#64 = ⟨1064693680#32, true⟩ := by decide

/-- R46, R47: a line of a listing, a comment, a pseudo-instruction, and lines that are none. -/
theorem test_readLine :
    readLine ['R', 'D', 'P', 'C', ' ', '9', ' ', ';', 'P', '9'] = some [.op (.rdpc 9)] ∧
    readLine ['.', 'b', 'y', 't', 'e', ' ', 'A', '7'] = some [.rawByte 0xA7#8] ∧
    readLine ['S', 'A', 'M', 'P', 'L', 'E', '3', '2', ' ', '4', 'E', ' ', '5', '4', ' ', '8', '0', ' ', '8', 'A', ' ',
      'B', 'C', ' ', '4', '0'] = some [.op (.ldraw docMeas), .op .tcomp, .op .pcomp32] ∧
    readLine ['R', 'D', 'T', 'C', ' ', '4'] = none ∧ readLine [' ', ';', 'x'] = some [] := by decide

/-! ## Witnesses: a case for the hypotheses of each statement -/

/-- DecodedBytesAreTheEncoding, both ends: with and without bytes after the request. -/
theorem witness_decoded :
    decode [0x16] = .instr (.rdtc 1) [] ∧ decode [0x97, 0x03] = .instr (.rdpc 9) [0x03] := by decide

/-- ExactlyTheIllegalBytesRaiseIllegalOp: the illegal neighbours of every range, and legal bytes at its ends. -/
theorem witness_illegal_bytes :
    cmdIllegal 0x00 = true ∧ cmdIllegal 0x08 = true ∧ cmdIllegal 0x13 = true ∧ cmdIllegal 0x06 = true ∧
    cmdIllegal 0x46 = true ∧ cmdIllegal 0x07 = true ∧ cmdIllegal 0xA7 = true ∧ cmdIllegal 0x0B = true ∧
    cmdIllegal 0x01 = false ∧ cmdIllegal 0x16 = false ∧ cmdIllegal 0x36 = false ∧ cmdIllegal 0x17 = false ∧
    cmdIllegal 0x97 = false ∧ 0x97#8 ∈ legalBytes ∧ loaded.err = false := by decide

/-- The clause on illegal command bytes in the statement of each operation: `idx` on an operation that takes none, `rsv`,
and the indices next to the ranges of `RDTC` and `RDPC`. -/
theorem witness_illegal_of_each_op :
    (cmdOp 0x11 = 1#3 ∧ cmdIllegal 0x11 = true) ∧ (cmdOp 0x0A = 2#3 ∧ cmdIllegal 0x0A = true) ∧
    (cmdOp 0x13 = 3#3 ∧ cmdIllegal 0x13 = true) ∧ (cmdOp 0x0C = 4#3 ∧ cmdIllegal 0x0C = true) ∧
    (cmdOp 0xF5 = 5#3 ∧ cmdIllegal 0xF5 = true) ∧ (cmdOp 0x46 = 6#3 ∧ cmdIllegal 0x46 = true) ∧
    (cmdOp 0xA7 = 7#3 ∧ cmdIllegal 0xA7 = true) ∧ State.reset.err = false := by decide

/-- CommandByteFixesRequestLength: one byte short, exactly enough, an illegal byte, and a byte that is neither 01 nor 02. -/
theorem witness_request_length :
    (0x01#8 :: List.replicate 23 0#8).length < requestLength 0x01 ∧
    requestLength 0x01 ≤ (0x01#8 :: List.replicate 24 0#8).length ∧
    (0x02#8 :: List.replicate 5 0#8).length < requestLength 0x02 ∧
    requestLength 0x02 ≤ (0x02#8 :: List.replicate 6 0#8).length ∧
    cmdIllegal 0xA7 = true ∧ requestLength 0xA7 ≤ [0xA7#8].length ∧ (0x03#8 ≠ 0x01#8 ∧ 0x03#8 ≠ 0x02#8) := by decide

/-- StepPerformsTheDecodedRequest. -/
theorem witness_step_performs :
    (presenting [0x36] loaded).port = .request [0x36] :: [] ∧ decode [0x36] = .instr (.rdtc 3) [] := by decide

/-- TableWordIsPerformedNext. -/
theorem witness_table_word : decodeTableWord 8 0x36 = some (.rdtc 3) := by decide

/-- ExactlyMalformedRequestsAreRefused: no byte, one byte short, one byte over; and a request that is not refused. -/
theorem witness_malformed :
    (∀ cmd payload, ([] : List Byte) = cmd :: payload → ([] : List Byte).length ≠ requestLength cmd) ∧
    step (presenting [] loaded) = .refused .payloadLength ∧
    step (presenting (0x02#8 :: List.replicate 5 0#8) loaded) = .refused .payloadLength ∧
    step (presenting (0x02#8 :: List.replicate 7 0#8) loaded) = .refused .payloadLength ∧
    (presenting [0x16] loaded).port = .request [0x16] :: [] := by
  refine ⟨?_, rfl, rfl, rfl, rfl⟩
  simp

/-- ListingLinesReadBackAndPresentTheirBytes: an operation at the end of its range, the reset line, a raw byte. -/
theorem witness_listing :
    (∀ i, SourceLine.op (.rdpc 9) = .op i → i.wellFormed = true) ∧
    (setPort [assembleLine (.op (.rdpc 9))] loaded).port = assembleLine (.op (.rdpc 9)) :: [] ∧
    (∀ i, SourceLine.reset = .op i → i.wellFormed = true) ∧
    (∀ i, SourceLine.rawByte 0xA7 = .op i → i.wellFormed = true) := by
  refine ⟨?_, rfl, ?_, ?_⟩
  · rintro i h
    cases h
    decide
  all_goals intro i h; cases h

/-- OnlyTheResetInputClears: the reset input on a used state; a step with every bit set that is none; a second `LDCAL`. -/
theorem witness_nothing_else_clears :
    (setPort [.reset] finished).port = .reset :: [] ∧
    step (presenting [0x03] { finished with err := true, ecause := 2#3, ovf := true, coef := some 50#32 }) =
      .next { finished with err := true, ecause := 2#3, ovf := true, coef := some 50#32 } ∧
    (presenting [0x03] finished).port.head? ≠ some .reset ∧
    exec (.ldcal docBuf) loaded = .next { loaded with err := true, ecause := 2#3 } ∧ loaded.cal.isSome :=
  ⟨rfl, rfl, by decide, rfl, rfl⟩

/-- StatusBitsChangeAsTabled: a step that changes each bit, and `LDRAW` clearing bits 2, 3, 4. -/
theorem witness_status_bits :
    exec (.ldcal docBuf) State.reset = .next loaded ∧ statusByte loaded = 0x01#8 ∧
    exec (.ldraw docMeas) loaded = .next sampled ∧ statusByte sampled = 0x03#8 ∧
    exec .tcomp sampled = .next warm ∧ statusByte warm = 0x07#8 ∧
    exec .pcomp32 warm = .next { warm with pPa := some 99795#32 } ∧
    exec .pcomp64 { warm with pPa := some 99795#32 } = .next finished ∧ statusByte finished = 0x1F#8 ∧
    exec (.ldraw docMeas) finished = .next sampled ∧
    exec (.rdtc 3) loaded = .next { loaded with coef := some 50#32 } ∧
    statusByte { loaded with coef := some 50#32 } = 0x21#8 ∧
    exec .tcomp State.reset = .next halted ∧ statusByte halted = 0x80#8 :=
  ⟨rfl, rfl, rfl, rfl, rfl, rfl, rfl, rfl, rfl, rfl, rfl, rfl, rfl, rfl⟩

/-- StatusBitsChangeAsTabled, OvfIsStickyAndStopsNothing, bit 6 (95_test_vectors 2.3, last row). -/
theorem witness_ovf_set :
    exec .tcomp overflowing = .next { overflowing with temp := some ⟨0#32, 0#32⟩, ovf := true } ∧
    overflowing.ovf = false ∧ statusByte { overflowing with temp := some ⟨0#32, 0#32⟩, ovf := true } = 0x47#8 :=
  ⟨rfl, rfl, rfl⟩

/-- OnlyTheNamedOperationsWriteEachRegister: each register written by a step (with the steps of witness_status_bits). -/
theorem witness_writes :
    loaded.cal ≠ State.reset.cal ∧ sampled.raw ≠ loaded.raw ∧ warm.temp ≠ sampled.temp ∧ finished.pPa ≠ warm.pPa ∧
    finished.pQ8 ≠ warm.pQ8 ∧ ({ loaded with coef := some 50#32 } : State).coef ≠ loaded.coef ∧
    ({ overflowing with ovf := true } : State).ovf ≠ overflowing.ovf := by decide

/-- ChecksAreMadeInOrder: halted, every fault as the first check that fails, no check that fails, an illegal byte. -/
theorem witness_checks :
    halted.err = true ∧ loaded.err = false ∧ firstFault (.rdpc 10) State.reset = some .illegalOp ∧
    firstFault (.ldcal docBuf) loaded = some .calLocked ∧ firstFault .pcomp32 State.reset = some .noCal ∧
    firstFault .pcomp32 loaded = some .noRaw ∧ firstFault .pcomp64 sampled = some .noFine ∧
    firstFault .pcomp64 warm = none ∧ firstFault (.ldraw docMeas) State.reset = none ∧
    firstFault (.ldcal docBuf) State.reset = none ∧ firstFault (.rdtc 3) loaded = none ∧
    cmdIllegal 0x08 = true := by decide

/-- FaultEntryChangesOnlyErrAndEcause, EcauseHoldsTheFirstFault: the check that fails for the bytes presented: `NoFine`
on program 2, an illegal index, an illegal byte, each before `NoCal`; a legal request and a byte string that is none. -/
theorem witness_request_fault :
    requestFault [0x04] sampled = some .noFine ∧ requestFault [0xA7] State.reset = some .illegalOp ∧
    requestFault [0x00] State.reset = some .illegalOp ∧ requestFault [0x03] (start [.request [0x03]]) = some .noCal ∧
    requestFault [0x04] warm = none ∧ requestFault [0x02, 0x4E] loaded = none := by decide

/-- HostReadFollowsValidBit: negative numbers of the signed registers, and numbers of the unsigned ones with the top bit
set (95_test_vectors 2.1, 6, 9.1); a register without a value. -/
theorem witness_host_reads :
    hostRead .tX100 { sampled with temp := some ⟨-102388#32, -2000#32⟩ } = some (-2000) ∧
    hostRead .tFine { sampled with temp := some ⟨-102388#32, -2000#32⟩ } = some (-102388) ∧
    hostRead .coef { loaded with coef := some (-32768#32) } = some (-32768) ∧
    hostRead (.calW 0) { loaded with cal := some (Vector.replicate 12 0x8000#16) } = some 32768 ∧
    hostRead .pQ8 { warm with pQ8 := some 4289261835#32 } = some 4289261835 ∧ hostRead .pPa finished = some 99795 ∧
    hostRead .rawT sampled = some 568260 ∧ hostRead .rawP sampled = some 320840 ∧
    hostRead .status halted = some 128 ∧ hostRead .ecause halted = some 3 ∧ hostRead .pPa warm = none := by decide

/-- FaultEntryChangesOnlyErrAndEcause: `NoFine` on program 2. -/
theorem witness_fault_entry :
    sampled.err = false ∧ performRequest [0x04] sampled = .next { sampled with err := true, ecause := 5#3 } :=
  ⟨rfl, rfl⟩

/-- HaltedCoreIgnoresRequests: a legal request with a payload, and an illegal byte. -/
theorem witness_halted :
    halted.err = true ∧ (0x02#8 :: docMeas.toList).length = requestLength 0x02 ∧
    [0x00#8].length = requestLength 0x00 ∧
    (presenting (0x02 :: docMeas.toList) halted).port = .request (0x02 :: docMeas.toList) :: [] ∧
    step (presenting (0x02 :: docMeas.toList) halted) = .next halted ∧
    (presenting (0x02 :: docMeas.toList) halted).port.head? ≠ some .reset :=
  ⟨rfl, rfl, rfl, rfl, rfl, by decide⟩

/-- OvfIsStickyAndStopsNothing, BootOrderCompletes and every statement of an operation that completes: states that meet
its conditions. -/
theorem witness_ready :
    warm.err = false ∧ warm.cal = some docCal ∧ warm.raw = some ⟨320840#20, 568260#20⟩ ∧
    warm.temp = some ⟨201633#32, 3938#32⟩ ∧ State.reset.err = false ∧ State.reset.cal = none ∧ loaded.cal.isSome ∧
    loaded.raw = none ∧ sampled.raw.isSome ∧ sampled.temp = none := by decide

/-- EcauseHoldsTheFirstFault, ReachableStatesAreConsistent: a reachable state that faults, and the one it reaches. -/
theorem witness_reachable :
    Reachable (start [.request [0x03], .request [0x00]]) ∧
    step (start [.request [0x03], .request [0x00]]) = .next { halted with port := [.request [0x00]] } ∧
    Reachable { halted with port := [.request [0x00]] } ∧
    step { halted with port := [.request [0x00]] } = .next halted :=
  ⟨.start _, rfl, .step (.start [.request [0x03], .request [0x00]]) rfl, rfl⟩

/-- R113: a state with events left is not final, whatever its `ERR`; the run of `TCOMP` from reset ends faulted
(95_test_vectors 10, first line). -/
theorem test_final : ¬GoodFinal (start [.request [0x03]]) ∧ run [.request [0x03]] = .next halted ∧
    FaultedFinal halted ∧ ¬GoodFinal halted := by
  refine ⟨?_, rfl, ⟨rfl, rfl⟩, ?_⟩ <;> simp [GoodFinal, Final, start, setPort, halted]

/-- ReachableStatesAreConsistent, its clauses on runs: a list of proper requests with a good end (R64, its example), and a
request and an illegal byte that a faulted run ignores. -/
theorem witness_run :
    AllRequestsProper [.request (0x01 :: docBuf.toList), .reset, .request (0x01 :: docBuf.toList)] ∧
    run [.request (0x01 :: docBuf.toList)] = .next loaded ∧ GoodFinal loaded ∧
    AllRequestsProper [.request (0x02 :: docMeas.toList), .request [0x00]] ∧
    HostEvent.reset ∉ [HostEvent.request (0x02 :: docMeas.toList), .request [0x00]] ∧
    run [.request [0x03], .request (0x02 :: docMeas.toList), .request [0x00]] = .next halted := by
  refine ⟨?_, rfl, ⟨rfl, rfl⟩, ?_, by decide, rfl⟩
  · intro bytes h
    simp only [List.mem_cons, reduceCtorEq, HostEvent.request.injEq, false_or, or_false, List.not_mem_nil, or_self] at h
    exact ⟨0x01, docBuf.toList, h, by rw [h]; rfl⟩
  · intro bytes h
    simp only [List.mem_cons, HostEvent.request.injEq, List.not_mem_nil, or_false] at h
    rcases h with h | h
    · exact ⟨0x02, docMeas.toList, h, by rw [h]; rfl⟩
    · exact ⟨0x00, [], h, by rw [h]; rfl⟩

/-- ReachableStatesAreConsistent: a reachable state with a table, a step before another request. -/
theorem witness_reachable_table :
    Reachable { loaded with port := [.request [0x16]] } ∧
    ({ loaded with port := [.request [0x16]] } : State).port.head? ≠ some .reset ∧
    step { loaded with port := [.request [0x16]] } = .next { loaded with coef := some 27545#32 } :=
  ⟨.step (.start [.request (0x01 :: docBuf.toList), .request [0x16]]) rfl, by decide, rfl⟩

/-- ReachableStatesAreConsistent: a reachable state with `OVF` set (95_test_vectors 2.3, last row: the raw temperature
741456 is 0xB5050), and a step from it. -/
theorem witness_reachable_ovf :
    Reachable { overflowing with temp := some ⟨0#32, 0#32⟩, ovf := true, port := [.request [0x03]] } ∧
    step { overflowing with temp := some ⟨0#32, 0#32⟩, ovf := true, port := [.request [0x03]] } =
      .next { overflowing with temp := some ⟨0#32, 0#32⟩, ovf := true } :=
  ⟨.step (.step (.step (.start [.request (0x01 :: List.replicate 24 0#8),
    .request [0x02, 0x00, 0x00, 0x00, 0xB5, 0x05, 0x00], .request [0x03], .request [0x03]]) rfl) rfl) rfl, rfl⟩

/-- SignedPrimitivesNarrowTheExactResult, both clauses of R49 at width 32 and 64: the largest value that fits, and one
beyond; the ends of the shift amounts. -/
theorem witness_signed_narrowing :
    (add32 2147483646#32 1#32).ovf = false ∧ (add32 2147483647#32 1#32).ovf = true ∧
    (sub32 (-2147483647#32) 1#32).ovf = false ∧ (sub32 (-2147483648#32) 1#32).ovf = true ∧
    (add64 9223372036854775806#64 1#64).ovf = false ∧ (add64 9223372036854775807#64 1#64).ovf = true ∧
    (shl32 (-1#32) 31).ovf = false ∧ (shl32 1#32 31).ovf = true ∧ (shl32 1073741823#32 1).ovf = false ∧
    (shl64 (-1#64) 63).ovf = false ∧ (shl64 1#64 63).ovf = true := by decide

/-- ArithmeticShiftIsFloorAndNeverOverflows: both ends of the shift amounts, on the most negative number. -/
theorem witness_shift_amounts :
    asr32 (-2147483648#32) 1 = ⟨-1073741824#32, false⟩ ∧ asr32 (-2147483648#32) 31 = ⟨-1#32, false⟩ ∧
    asr64 (-9223372036854775808#64) 63 = ⟨-1#64, false⟩ := by decide

/-- UnsignedPrimitivesNarrowTheExactResult: fits and does not, both ends of the shift amounts, a nonzero divisor. -/
theorem witness_unsigned :
    (mulu32 65537#32 65535#32).ovf = false ∧ (mulu32 65536#32 65536#32).ovf = true ∧
    (shlu32 1#32 31).ovf = false ∧ (shlu32 2147483648#32 1).ovf = true ∧
    lsr32 4294967295#32 31 = ⟨1#32, false⟩ ∧ (1#32 : U32) ≠ 0#32 ∧ (-1#32 : S32) ≠ 0#32 := by decide

/-- ConversionsKeepThePattern: each side of both boundaries. -/
theorem witness_conversions :
    tou32 0#32 = ⟨0#32, false⟩ ∧ (tou32 (-1#32)).ovf = true ∧ (tos32 2147483647#32).ovf = false ∧
    (tos32 2147483648#32).ovf = true := by decide

/-- SignedDivisionTruncates: a nonzero divisor, the one case that overflows and its two neighbours. -/
theorem witness_division :
    (-1#64 : S64) ≠ 0#64 ∧ (sdiv64 (BitVec.intMin 64) (-1#64)).ovf = true ∧
    (sdiv64 (BitVec.intMin 64) 1#64).ovf = false ∧ (sdiv64 (-9223372036854775807#64) (-1#64)).ovf = false := by decide

/-- ResultNarrowingKeepsLowBits: each side of both boundaries. -/
theorem witness_result_narrowing :
    (tou32of64 0#64).ovf = false ∧ (tou32of64 (-1#64)).ovf = true ∧ (tou32of64 4294967295#64).ovf = false ∧
    (tou32of64 4294967296#64).ovf = true := by decide

/-- ParseIsLittleEndianInOrder: another block with the same last word. -/
theorem witness_parse :
    (docBuf.set 0 0#8)[22] = docBuf[22] ∧ (docBuf.set 0 0#8)[23] = docBuf[23] ∧ docBuf.set 0 0#8 ≠ docBuf := by decide

/-- RawDecodeTakesTheTopTwentyBits: 95_test_vectors 7, the first two rows: blocks that differ in low nibbles only. -/
theorem witness_low_nibbles :
    (#v[0x4E, 0x54, 0x8F, 0x8A, 0xBC, 0x4F] : MeasBuf) ≠ docMeas ∧ (0x8F#8 >>> 4 = 0x80#8 >>> 4) ∧
    (0x4F#8 >>> 4 = 0x40#8 >>> 4) ∧ fRaw #v[0x4E, 0x54, 0x8F, 0x8A, 0xBC, 0x4F] = fRaw docMeas := by decide

/-- ReadBackKeepsTheWord, RdtcReadsTheTemperatureCoefficient, RdpcReadsThePressureCoefficient: the ends of both ranges,
an index outside each, a table whose last word is negative and one whose first is not. -/
theorem witness_indices :
    1 ≤ (1#4).toNat ∧ (3#4).toNat ≤ 3 ∧ (9#4).toNat ≤ 9 ∧ ¬(1 ≤ (0#4).toNat ∧ (0#4).toNat ≤ 3) ∧
    ¬(1 ≤ (4#4).toNat ∧ (4#4).toNat ≤ 3) ∧ ¬(1 ≤ (10#4).toNat ∧ (10#4).toNat ≤ 9) ∧ loaded.cal = some docCal ∧
    (docCal.get 10).msb = true ∧ (docCal.get 0).msb = false := by decide

/-- FineTemperatureIsExactWithoutOverflow, TemperatureSquareOverflowsExactlyFarFromT1: no overflow just below the boundary
of R75(c), and one at it (95_test_vectors 2.3, the last two rows). -/
theorem witness_fine_temperature :
    (fTfine 741455#20 zeroCal).ovf = false ∧ (fTfine 741456#20 zeroCal).ovf = true ∧
    46341 ≤ (((741456#20 : U20).toNat : Int) / 2 ^ 4 - coefNumber zeroCal 0).natAbs ∧
    zeroCal.get 1 = 0#16 ∧ zeroCal.get 2 = 0#16 := by decide

/-- HundredthsAreRoundedHalfUp: both boundaries of R72 (95_test_vectors 2.4). -/
theorem witness_hundredths :
    fTx100 429496703#32 = ⟨8388607#32, false⟩ ∧ (fTx100 429496704#32).ovf = true ∧
    (fTx100 (-429496729#32)).ovf = false ∧ (fTx100 (-429496730#32)).ovf = true := by decide

/-- PressureThirtyTwoIsExactWithoutOverflow, ZeroDenominatorReturnsZero: 95_test_vectors 8.1 and 8.3: no overflow with
either branch; a zero denominator with `P1` = 1, with `P1` = 0, and after an overflow. -/
theorem witness_pressure32 :
    (fP32 Config.p32Threshold 900000#20 201633#32 docCal) = ⟨2200#32, false⟩ ∧
    (p32Denominator 201633#32 (docCal.set 3 1#16)).value.2 = 0#32 ∧ (docCal.set 3 0#16).get 3 = 0#16 ∧
    (p32Denominator 2147483647#32 (zeroCal.set 8 0x8000#16)).value.2 = 0#32 ∧
    (p32Denominator 2147483647#32 (zeroCal.set 8 0x8000#16)).ovf = true := by decide

/-- ZeroDenominatorReturnsZero, ZeroDenominatorSixtyFourReturnsZero: a state in which both operations exit early. -/
theorem witness_early_exit :
    overflowingPressure.err = false ∧
    exec .pcomp32 overflowingPressure = .next { overflowingPressure with pPa := some 0#32, ovf := true } ∧
    exec .pcomp64 overflowingPressure = .next { overflowingPressure with pQ8 := some 0#32, ovf := true } :=
  ⟨rfl, rfl, rfl⟩

/-- ThresholdBranchDividesAsStated: both sides of 2^27, a divisor of 1 on both sides of 2^31, and a remainder on both
sides of half the divisor (95_test_vectors 8.1: rows 864498 and 864497). -/
theorem witness_threshold :
    (134215625#32 : U32).toNat < 134217728 ∧ 134217728 ≤ (134217728#32 : U32).toNat ∧ (36712#32 : U32) ≠ 0#32 ∧
    (p32Quotient Config.p32Threshold 2147483647#32 1#32).ovf = false ∧
    (p32Quotient Config.p32Threshold 2147483648#32 1#32).ovf = true ∧
    (36712#32 : U32).toNat ≤ 2 * ((134218750#32 : U32).toNat % (36712#32 : U32).toNat) ∧
    ¬(36712#32 : U32).toNat ≤ 2 * ((1833146875#32 : U32).toNat % (36712#32 : U32).toNat) := by decide

/-- DenominatorIsZeroOnlyForTinyP1: a table for each clause (95_test_vectors 8.3: rows 1, 3 and 4). -/
theorem witness_tiny_p1 :
    ((docCal.set 3 0#16).get 3).toNat = 0 ∧ ((docCal.set 3 1#16).get 3).toNat = 1 ∧
    (p32Denominator 201633#32 ((docCal.set 3 1#16).set 4 10626#16)).value.2 = 1#32 ∧
    2 ≤ ((docCal.set 3 2#16).get 3).toNat ∧ (p32Denominator 201633#32 (docCal.set 3 2#16)).value.2 = 1#32 := by decide

/-- PressureSquareOverflowsOutsideItsRange: both boundaries of R82(b). -/
theorem witness_square :
    (p32Denominator (-242720#32) zeroCal).ovf = false ∧ (p32Denominator (-242721#32) zeroCal).ovf = true ∧
    (p32Denominator 498727#32 zeroCal).ovf = false ∧ (p32Denominator 498728#32 zeroCal).ovf = true := by decide

/-- PressureSixtyFourIsExactWithoutOverflow, ZeroDenominatorSixtyFourReturnsZero, WideDenominatorIsExactBeforeP1: a
negative dividend without overflow (95_test_vectors 9.1), `P1` = 0 and another `P1`, the ends of the range of R88(b), and
its example of an overflow beyond them. -/
theorem witness_pressure64 :
    fP64 907448#20 201633#32 docCal = ⟨247958#32, false⟩ ∧ (docCal.set 3 0#16).get 3 = 0#16 ∧
    (p64Denominator 201633#32 (docCal.set 3 0#16)).value.2 = 0#64 ∧
    (-1179648#32 : S32).toInt.natAbs ≤ 1179648 ∧ (1179648#32 : S32).toInt.natAbs ≤ 1179648 ∧
    (p64Denominator (-1179648#32) (docCal.set 3 0#16)).ovf = false ∧ docCal.get 3 ≠ 0#16 ∧
    (p64Terms 2147483647#32 (zeroCal.set 8 0x8000#16)).ovf = true := by decide

/-- LoadsLeaveTheRestUnchanged, FormulaOperationsLeaveTheRestUnchanged, ReadBacksLeaveTheRestUnchanged: a fault, and a
request ignored, beside the completing steps of witness_status_bits. -/
theorem witness_frames :
    exec (.ldcal docBuf) halted = .next halted ∧ exec .tcomp loaded = .next { loaded with err := true, ecause := 4#3 } ∧
    exec (.rdtc 0) loaded = .next { loaded with err := true, ecause := 1#3 } ∧
    exec (.rdpc 9) loaded = .next { loaded with coef := some 6000#32 } :=
  ⟨rfl, rfl, rfl, rfl⟩

/-- RepeatingARequestChangesNothing: a request that is no `LDCAL`, and the state it leaves. -/
theorem witness_repeat :
    (∀ buf, Instr.ldraw docMeas ≠ .ldcal buf) ∧ exec (.ldraw docMeas) finished = .next sampled ∧
    exec (.ldraw docMeas) sampled = .next sampled := by
  refine ⟨?_, rfl, rfl⟩
  intro buf h
  cases h

/-- TableIsImmutableUntilReset: a completed `LDCAL`; a step of a loaded core that is no reset. -/
theorem witness_table :
    exec (.ldcal docBuf) State.reset = .next loaded ∧ loaded.err = false ∧
    step (presenting (0x02 :: docMeas.toList) loaded) = .next sampled ∧ loaded.cal = some docCal ∧
    (presenting (0x02 :: docMeas.toList) loaded).port.head? ≠ some .reset :=
  ⟨rfl, rfl, rfl, rfl, by decide⟩

/-- EarlierSamplesDoNotInfluenceResults: two states with the same table and different pasts. -/
theorem witness_two_pasts :
    loaded.cal = finished.cal ∧ loaded ≠ finished ∧
    execAll [.ldraw docMeas, .tcomp, .pcomp32, .pcomp64] loaded = .next finished ∧
    execAll [.ldraw docMeas, .tcomp, .pcomp32, .pcomp64] finished = .next finished ∧ finished.err = false :=
  ⟨rfl, by decide, rfl, rfl, rfl⟩

/-- BootOrderCompletes: from reset (95_test_vectors program 1). -/
theorem witness_boot :
    execAll [.ldcal docBuf, .ldraw docMeas, .tcomp, .pcomp32, .pcomp64] State.reset = .next finished := by rfl

/-- StepKeepsConsistency: a state with a result of its own sample meets the invariant, and a step from it goes on. -/
theorem witness_consistent :
    Consistent { warm with port := [.request [0x04]] } ∧
    step { warm with port := [.request [0x04]] } = .next { warm with pPa := some 99795#32 } := by
  refine ⟨⟨fun _ => ⟨rfl, rfl⟩, fun _ => rfl, fun _ => rfl, ⟨by decide, by decide⟩, ?_⟩, rfl⟩
  intro t ht
  cases ht
  refine ⟨docCal, ⟨320840#20, 568260#20⟩, rfl, rfl, by decide, by decide, ?_, ?_⟩ <;> intro p hp <;> cases hp

end Sys2Proof.Tests
end

/-! PROOFS. The state family: what each operation writes, `STATUS` and host reads, the checks of R96, and the invariants
of 10_state R28. -/

namespace Sys2Proof.Proofs

open Sys2Proof.Machine Sys2Proof.Safety Sys2Proof.Claims

/-! ## Keeping the invariants of R28 -/

@[simp] theorem temperature_tFine (rawT : U20) (cal : Cal) :
    (temperature rawT cal).value.tFine = (fTfine rawT cal).value := by
  rw [temperature, next_value, next_value, noPrimitive_value]

@[simp] theorem temperature_tX100 (rawT : U20) (cal : Cal) :
    (temperature rawT cal).value.tX100 = (fTx100 (fTfine rawT cal).value).value := by
  rw [temperature, next_value, next_value, noPrimitive_value]

/-- R28(d) for the state fault entry leaves: the codes of R90 are 1 to 5. -/
theorem causeMatchesErr_raise (f : FaultCause) (s : State) : CauseMatchesErr (raise f s) := by
  simp [CauseMatchesErr, faultCode_range]

/-- R28(a): a consistent state without a table has no temperature either. -/
theorem temp_eq_none_of_cal {s : State} (h : Consistent s) (hc : s.cal = none) : s.temp = none := by
  obtain ⟨ha, -⟩ := h
  by_contra ht
  simpa [hc] using ha (Option.isSome_iff_ne_none.2 ht)

/-- R28(e) at the operands the state holds. -/
theorem resultsCurrent_at {s : State} (h : ResultsCurrent s) {cal : Cal} {raw : RawPair} {temp : TempPair}
    (hcal : s.cal = some cal) (hraw : s.raw = some raw) (htemp : s.temp = some temp) :
    temp.tFine = (fTfine raw.rawT cal).value ∧ temp.tX100 = (fTx100 temp.tFine).value ∧
    (∀ p, s.pPa = some p → p = (fP32 Config.p32Threshold raw.rawP temp.tFine cal).value) ∧
    (∀ p, s.pQ8 = some p → p = (fP64 raw.rawP temp.tFine cal).value) := by
  obtain ⟨cal', raw', hcal', hraw', hcurrent⟩ := h temp htemp
  obtain rfl : cal = cal' := by simpa [hcal] using hcal'
  obtain rfl : raw = raw' := by simpa [hraw] using hraw'
  exact hcurrent

section Operations
variable {s : State}

/-- What the host has still to present is no part of the invariants. -/
theorem consistent_setPort (h : Consistent s) (port : List HostEvent) : Consistent (setPort port s) := h

/-- No invariant but R28(d) reads what fault entry writes. -/
theorem consistent_raise (h : Consistent s) (f : FaultCause) : Consistent (raise f s) := by
  obtain ⟨ha, hb, hc, -, he⟩ := h
  exact ⟨ha, hb, hc, causeMatchesErr_raise f s, he⟩

/-- With no value in any data register, R28 asks nothing but that `ECAUSE` and `ERR` are both clear. -/
theorem consistent_assertReset : Consistent (assertReset s) := by
  simp [Consistent, TempHasOperands, PressureHasTemp, CoefHasCal, CauseMatchesErr, ResultsCurrent]

/-- R64: a table is loaded only where none was, so no result of another table can be valid. -/
theorem consistent_loadCal (h : Consistent s) (hc : s.cal = none) (cal : Cal) : Consistent (loadCal cal s) := by
  have ht := temp_eq_none_of_cal h hc
  obtain ⟨-, hb, -, hd, -⟩ := h
  exact ⟨by simp [TempHasOperands, ht], hb, fun _ => rfl, hd, by simp [ResultsCurrent, ht]⟩

/-- R69: the results of the earlier sample go with it. -/
theorem consistent_loadRaw (h : Consistent s) (raw : RawPair) : Consistent (loadRaw raw s) := by
  obtain ⟨-, -, hc, hd, -⟩ := h
  exact ⟨by simp [TempHasOperands], by simp [PressureHasTemp], hc, hd, by simp [ResultsCurrent]⟩

/-- R73: pressures that are already valid stay current, because `TCOMP` writes the fine temperature they were computed
from once more. -/
theorem consistent_writeTemp (h : Consistent s) {cal : Cal} {raw : RawPair} (hcal : s.cal = some cal)
    (hraw : s.raw = some raw) (ovf : Bool) :
    Consistent (writeTemp (temperature raw.rawT cal).value ovf s) := by
  obtain ⟨-, hb, hc, hd, he⟩ := h
  refine ⟨by simp [TempHasOperands, hcal, hraw], by simp [PressureHasTemp], hc, hd, ?_⟩
  intro t ht
  obtain rfl : (temperature raw.rawT cal).value = t := by simpa using ht
  rw [temperature_tFine]
  refine ⟨cal, raw, hcal, hraw, rfl, temperature_tX100 _ _, ?_⟩
  cases ht : s.temp with
  | none =>
    obtain ⟨hp, hq⟩ : s.pPa = none ∧ s.pQ8 = none := by
      simpa [PressureHasTemp, ht] using hb
    simp [hp, hq]
  | some old =>
    obtain ⟨hfine, -, hpPa, hpQ8⟩ := resultsCurrent_at he hcal hraw ht
    rw [hfine] at hpPa hpQ8
    exact ⟨hpPa, hpQ8⟩

/-- R81: `PCOMP32` writes the pressure of the current operands, and nothing the other invariants read. -/
theorem consistent_writePPa (h : Consistent s) {cal : Cal} {raw : RawPair} {temp : TempPair} (hcal : s.cal = some cal)
    (hraw : s.raw = some raw) (htemp : s.temp = some temp) (ovf : Bool) :
    Consistent (writePPa (fP32 Config.p32Threshold raw.rawP temp.tFine cal).value ovf s) := by
  obtain ⟨ha, -, hc, hd, he⟩ := h
  refine ⟨ha, by simp [PressureHasTemp, htemp], hc, hd, ?_⟩
  intro t ht
  obtain rfl : temp = t := by simpa [htemp] using ht
  obtain ⟨hfine, hx100, -, hpQ8⟩ := resultsCurrent_at he hcal hraw htemp
  exact ⟨cal, raw, hcal, hraw, hfine, hx100, by simp, hpQ8⟩

/-- R87: `PCOMP64` writes the pressure of the current operands, and nothing the other invariants read. -/
theorem consistent_writePQ8 (h : Consistent s) {cal : Cal} {raw : RawPair} {temp : TempPair} (hcal : s.cal = some cal)
    (hraw : s.raw = some raw) (htemp : s.temp = some temp) (ovf : Bool) :
    Consistent (writePQ8 (fP64 raw.rawP temp.tFine cal).value ovf s) := by
  obtain ⟨ha, -, hc, hd, he⟩ := h
  refine ⟨ha, by simp [PressureHasTemp, htemp], hc, hd, ?_⟩
  intro t ht
  obtain rfl : temp = t := by simpa [htemp] using ht
  obtain ⟨hfine, hx100, hpPa, -⟩ := resultsCurrent_at he hcal hraw htemp
  exact ⟨cal, raw, hcal, hraw, hfine, hx100, hpPa, by simp⟩

/-- R65, R66: `COEF` is written only with a table loaded. -/
theorem consistent_writeCoef (h : Consistent s) {cal : Cal} (hcal : s.cal = some cal) (v : S32) :
    Consistent (writeCoef v s) := by
  obtain ⟨ha, hb, -, hd, he⟩ := h
  exact ⟨ha, hb, by simp [CoefHasCal, hcal], hd, he⟩

end Operations

/-- Every operation keeps R28, ignored, faulted or performed. -/
theorem consistent_exec {i : Instr} {s t : State} (hs : Consistent s) (h : exec i s = .next t) : Consistent t := by
  rcases exec_cases h with ⟨-, rfl⟩ | ⟨-, f, rfl⟩ | ⟨-, buf, -, hcal, rfl⟩ | ⟨-, m, -, rfl⟩ |
    ⟨-, -, cal, raw, hcal, hraw, rfl⟩ | ⟨-, -, cal, raw, temp, hcal, hraw, htemp, rfl⟩ |
    ⟨-, -, cal, raw, temp, hcal, hraw, htemp, rfl⟩ | ⟨-, idx, c, cal, -, hcal, rfl⟩
  · exact hs
  · exact consistent_raise hs f
  · exact consistent_loadCal hs hcal _
  · exact consistent_loadRaw hs _
  · exact consistent_writeTemp hs hcal hraw _
  · exact consistent_writePPa hs hcal hraw htemp _
  · exact consistent_writePQ8 hs hcal hraw htemp _
  · exact consistent_writeCoef hs hcal _

/-- Settles O57: every operation, fault entry and the reset input keep R28, and a step is one of them. -/
theorem stepKeepsConsistency : Obligations.StepKeepsConsistency := by
  intro s t hs h
  rcases step_cases h with ⟨-, rfl⟩ | ⟨port, -, rfl⟩ | ⟨-, i, port, -, -, hi⟩ | ⟨-, -, port, -, -, hi⟩
  · exact hs
  · exact consistent_assertReset
  · exact consistent_exec (consistent_setPort hs port) hi
  · obtain ⟨-, rfl⟩ | ⟨-, rfl⟩ := illegalRequest_cases hi
    · exact consistent_setPort hs port
    · exact consistent_raise (consistent_setPort hs port) _

/-! ## What each operation writes -/

/-- R14, R16 to R22, R24: for each register and flag, the operations that write it and what they leave in it. -/
structure WritesAsNamed (i : Instr) (s t : State) : Prop where
  cal : t.cal = s.cal ∨ t.cal.isSome ∧ ∃ b, i = .ldcal b
  raw : t.raw = s.raw ∨ t.raw.isSome ∧ ∃ m, i = .ldraw m
  temp : t.temp = s.temp ∨ t.temp.isSome ∧ i = .tcomp ∨ t.temp = none ∧ ∃ m, i = .ldraw m
  pPa : t.pPa = s.pPa ∨ t.pPa.isSome ∧ i = .pcomp32 ∨ t.pPa = none ∧ ∃ m, i = .ldraw m
  pQ8 : t.pQ8 = s.pQ8 ∨ t.pQ8.isSome ∧ i = .pcomp64 ∨ t.pQ8 = none ∧ ∃ m, i = .ldraw m
  coef : t.coef = s.coef ∨ t.coef.isSome ∧ ∃ idx, i = .rdtc idx ∨ i = .rdpc idx
  ovf : t.ovf = s.ovf ∨ i = .tcomp ∨ i = .pcomp32 ∨ i = .pcomp64
  ovf_sticky : s.ovf = true → t.ovf = true
  err : t.err = s.err ∨ t.err = true ∧ ∃ f, t = raise f s
  port : t.port = s.port

/-- Every operation, ignored, faulted or performed, writes only what is named for it. -/
theorem exec_writes {i : Instr} {s t : State} (h : exec i s = .next t) : WritesAsNamed i s t := by
  rcases exec_cases h with ⟨-, rfl⟩ | ⟨-, f, rfl⟩ | ⟨-, buf, rfl, -, rfl⟩ | ⟨-, m, rfl, rfl⟩ |
    ⟨-, rfl, cal, raw, -, -, rfl⟩ | ⟨-, rfl, cal, raw, temp, -, -, -, rfl⟩ |
    ⟨-, rfl, cal, raw, temp, -, -, -, rfl⟩ | ⟨-, idx, c, cal, hi, -, rfl⟩
  case inr.inl =>
    have hf : ∃ g, raise f s = raise g s := ⟨f, rfl⟩
    constructor <;> simp [hf]
  case inr.inr.inr.inr.inr.inr.inr =>
    have hrd : ∃ idx, i = .rdtc idx ∨ i = .rdpc idx := ⟨idx, hi.imp And.left And.left⟩
    constructor <;> simp [hrd]
  all_goals constructor <;> simp +contextual

/-- Settles O14: what each operation writes, read field by field. -/
theorem onlyTheNamedOperationsWriteEachRegister : Obligations.OnlyTheNamedOperationsWriteEachRegister := by
  intro i s t h
  obtain ⟨hcal, hraw, htemp, hpPa, hpQ8, hcoef, hovf, -, -, hport⟩ := exec_writes h
  refine ⟨fun hne => ?_, fun hne => ?_, fun hne => ?_, fun hne => ?_, fun hne => ?_, fun hne => ?_,
    hovf.resolve_left, hport⟩
  · exact (hcal.resolve_left hne).2
  · exact (hraw.resolve_left hne).2
  · exact (htemp.resolve_left hne).imp And.right And.right
  · exact (hpPa.resolve_left hne).imp And.right And.right
  · exact (hpQ8.resolve_left hne).imp And.right And.right
  · exact (hcoef.resolve_left hne).2

/-- R24: a step of an operation that changes `OVF` sets it, and is one of the three. -/
theorem exec_ovf_ne {i : Instr} {s t : State} (h : exec i s = .next t) (hne : t.ovf ≠ s.ovf) :
    t.ovf = true ∧ (i = .tcomp ∨ i = .pcomp32 ∨ i = .pcomp64) := by
  have hw := exec_writes h
  refine ⟨?_, hw.ovf.resolve_left hne⟩
  cases hs : s.ovf with
  | false => simpa [hs] using hne
  | true => exact hw.ovf_sticky hs

/-! ## The bits of `STATUS` and host reads -/

/-- R22: what each bit of `STATUS` is, from `CAL_VALID` up to `ERR`. -/
theorem statusByte_bits (s : State) :
    (statusByte s).getLsbD 0 = s.cal.isSome ∧ (statusByte s).getLsbD 1 = s.raw.isSome ∧
    (statusByte s).getLsbD 2 = s.temp.isSome ∧ (statusByte s).getLsbD 3 = s.pPa.isSome ∧
    (statusByte s).getLsbD 4 = s.pQ8.isSome ∧ (statusByte s).getLsbD 5 = s.coef.isSome ∧
    (statusByte s).getLsbD 6 = s.ovf ∧ (statusByte s).getLsbD 7 = s.err := by
  simp only [statusByte, flagBit, BitVec.getLsbD_append, BitVec.getLsbD_ofBool]
  simp

/-- R105: with every register as R26 says, every bit of `STATUS` is 0. -/
theorem statusByte_assertReset (s : State) : statusByte (assertReset s) = 0#8 := by
  simp [statusByte, flagBit]

/-- R22: a valid bit that one operation sets and `LDRAW` clears. -/
theorem validBit_set_or_cleared {α : Type} {new old : Option α} {setter clearer : Prop}
    (h : new = old ∨ new.isSome ∧ setter ∨ new = none ∧ clearer) (hne : new.isSome ≠ old.isSome) :
    if new.isSome then setter else clearer := by
  rcases h with rfl | ⟨hsome, hset⟩ | ⟨rfl, hclear⟩
  · exact absurd rfl hne
  · simpa [hsome] using hset
  · simpa using hclear

/-- R22: a valid bit that operations only set. -/
theorem validBit_only_set {α : Type} {new old : Option α} {setter : Prop}
    (h : new = old ∨ new.isSome ∧ setter) (hne : new.isSome ≠ old.isSome) : new.isSome ∧ setter :=
  h.resolve_left fun heq => hne (congrArg _ heq)

/-- Settles O12: each bit is a field of the state or its presence, so it changes as what each operation writes. -/
theorem statusBitsChangeAsTabled : Obligations.StatusBitsChangeAsTabled := by
  refine ⟨statusByte_bits, statusByte_assertReset, fun i s t h => ?_⟩
  obtain ⟨hcal, hraw, htemp, hpPa, hpQ8, hcoef, -, -, herr, -⟩ := exec_writes h
  simp only [statusByte_bits]
  exact ⟨validBit_only_set hcal, validBit_only_set hraw, validBit_set_or_cleared htemp, validBit_set_or_cleared hpPa,
    validBit_set_or_cleared hpQ8, validBit_only_set hcoef, exec_ovf_ne h, herr.resolve_left⟩

/-- Settles O13: a read maps the register's optional value, whose presence is the valid bit. -/
theorem hostReadFollowsValidBit : Obligations.HostReadFollowsValidBit := by
  refine ⟨fun r s => ?_, fun s => ⟨rfl, rfl, ?_⟩⟩
  · cases r <;> simp only [hostRead, validBit, statusByte_bits, Option.isSome_map, Option.isSome_some]
  · refine ⟨fun cal k hv => ?_, fun raw hv => ?_, fun temp hv => ?_, fun p hv => ?_, fun p hv => ?_, fun v hv => ?_⟩ <;>
      simp [hostRead, hv]

/-! ## `OVF` -/

section Completes
variable {s : State} {cal : Cal} {raw : RawPair} {temp : TempPair}

/-- R73, R96: with every check passed `TCOMP` writes its result. -/
theorem exec_tcomp_completes (he : s.err = false) (hc : s.cal = some cal) (hr : s.raw = some raw) :
    exec .tcomp s = .next (writeTemp (temperature raw.rawT cal).value (temperature raw.rawT cal).ovf s) := by
  simp [exec_tcomp, he, hc, hr]

/-- R81, R96: with every check passed `PCOMP32` writes its result. -/
theorem exec_pcomp32_completes (he : s.err = false) (hc : s.cal = some cal) (hr : s.raw = some raw)
    (ht : s.temp = some temp) :
    exec .pcomp32 s = .next (writePPa (fP32 Config.p32Threshold raw.rawP temp.tFine cal).value
      (fP32 Config.p32Threshold raw.rawP temp.tFine cal).ovf s) := by
  simp [exec_pcomp32, he, hc, hr, ht]

/-- R87, R96: with every check passed `PCOMP64` writes its result. -/
theorem exec_pcomp64_completes (he : s.err = false) (hc : s.cal = some cal) (hr : s.raw = some raw)
    (ht : s.temp = some temp) :
    exec .pcomp64 s = .next (writePQ8 (fP64 raw.rawP temp.tFine cal).value
      (fP64 raw.rawP temp.tFine cal).ovf s) := by
  simp [exec_pcomp64, he, hc, hr, ht]

end Completes

/-- Settles O18: with every check passed the effect is the write of the result, which ORs the flag in. -/
theorem ovfIsStickyAndStopsNothing : Obligations.OvfIsStickyAndStopsNothing := by
  refine ⟨fun s cal raw he hc hr => ?_, fun s cal raw temp he hc hr ht => ⟨?_, ?_⟩, fun i s t h => exec_ovf_ne h⟩
  · exact ⟨_, exec_tcomp_completes he hc hr, he, writeTemp_temp .., writeTemp_ovf ..⟩
  · exact ⟨_, exec_pcomp32_completes he hc hr ht, he, writePPa_pPa .., writePPa_ovf ..⟩
  · exact ⟨_, exec_pcomp64_completes he hc hr ht, he, writePQ8_pQ8 .., writePQ8_ovf ..⟩

/-! ## The first fault -/

/-- R96: with `ERR` = 0 the first check that fails decides; with none the operation raises nothing. -/
theorem exec_checks (i : Instr) {s : State} (he : s.err = false) :
    (∃ f, firstFault i s = some f ∧ exec i s = .next (raise f s)) ∨
    (firstFault i s = none ∧ ∃ t, exec i s = .next t ∧ t.err = false ∧ t.ecause = s.ecause) := by
  cases i with
  | ldcal buf =>
    rw [exec_ldcal, he]
    cases hc : s.cal <;> simp [firstFault, Instr.wellFormed, hc, he]
  | ldraw m =>
    rw [exec_ldraw, he]
    simp [firstFault, Instr.wellFormed, he]
  | tcomp =>
    rw [exec_tcomp, he]
    cases hc : s.cal <;> cases hr : s.raw <;> simp [firstFault, Instr.wellFormed, hc, hr, he]
  | pcomp32 =>
    rw [exec_pcomp32, he]
    cases hc : s.cal <;> cases hr : s.raw <;> cases ht : s.temp <;>
      simp [firstFault, Instr.wellFormed, hc, hr, ht, he]
  | pcomp64 =>
    rw [exec_pcomp64, he]
    cases hc : s.cal <;> cases hr : s.raw <;> cases ht : s.temp <;>
      simp [firstFault, Instr.wellFormed, hc, hr, ht, he]
  | rdtc idx =>
    rw [exec_rdtc, he]
    cases hi : tCoef idx <;> cases hc : s.cal <;> simp [firstFault, wellFormed_rdtc, hi, hc, he]
  | rdpc idx =>
    rw [exec_rdpc, he]
    cases hi : pCoef idx <;> cases hc : s.cal <;> simp [firstFault, wellFormed_rdpc, hi, hc, he]

/-- R97: an operation that sets `ERR` has entered the fault of the first check that failed. -/
theorem exec_sets_err {i : Instr} {s t : State} (he : s.err = false) (h : exec i s = .next t) (ht : t.err = true) :
    ∃ f, firstFault i s = some f ∧ t = raise f s := by
  rcases exec_checks i he with ⟨f, hf, hx⟩ | ⟨-, u, hx, hu, -⟩
  · exact ⟨f, hf, by simpa [hx] using h.symm⟩
  · obtain rfl : u = t := by simpa [hx] using h
    simp [hu] at ht

/-- R97: a request that sets `ERR` has entered the fault of the first check that failed for its bytes. -/
theorem performRequest_sets_err {bytes : List Byte} {s t : State} (he : s.err = false)
    (h : performRequest bytes s = .next t) (ht : t.err = true) :
    ∃ f, requestFault bytes s = some f ∧ t = raise f s := by
  unfold performRequest at h
  split at h
  case h_1 i hd => simpa [requestFault, hd] using exec_sets_err he h ht
  case h_2 cmd hd =>
    obtain ⟨hs, -⟩ | ⟨-, rfl⟩ := illegalRequest_cases h
    · simp [he] at hs
    · exact ⟨_, by simp [requestFault, hd], rfl⟩
  all_goals cases h

/-- The checks read the registers of CORE, not what the host has still to present. -/
theorem requestFault_setPort (bytes : List Byte) (port : List HostEvent) (s : State) :
    requestFault bytes (setPort port s) = requestFault bytes s := rfl

/-- R97: a step that sets `ERR` took a request, and entered the fault of the first check that failed for it. -/
theorem step_sets_err {s t : State} (h : Machine.step s = .next t) (he : s.err = false) (ht : t.err = true) :
    ∃ bytes f, s.port.head? = some (.request bytes) ∧ requestFault bytes s = some f ∧ t.ecause = faultCode f := by
  match hp : s.port with
  | [] =>
    obtain rfl : s = t := by simpa [step_idle hp] using h
    simp [he] at ht
  | .reset :: port =>
    obtain rfl : assertReset (setPort port s) = t := by simpa [step_reset hp] using h
    simp at ht
  | .request bytes :: port =>
    rw [step_request hp] at h
    obtain ⟨f, hf, rfl⟩ := performRequest_sets_err (s := setPort port s) he h ht
    exact ⟨bytes, f, rfl, hf, rfl⟩

/-- R98: while `ERR` = 1 a step that takes no reset input changes nothing but what the host has still to present. -/
theorem step_of_err {s t : State} (h : Machine.step s = .next t) (he : s.err = true)
    (hr : s.port.head? ≠ some .reset) : ∃ port, t = setPort port s := by
  rcases step_cases h with ⟨-, rfl⟩ | ⟨port, hp, -⟩ | ⟨-, i, port, -, -, hi⟩ | ⟨-, -, port, -, -, hi⟩
  · exact ⟨t.port, rfl⟩
  · simp [hp] at hr
  · rw [exec_of_err (by simpa using he)] at hi
    exact ⟨port, by simpa using hi.symm⟩
  · obtain ⟨-, rfl⟩ | ⟨hs, -⟩ := illegalRequest_cases hi
    · exact ⟨port, rfl⟩
    · simp [he] at hs

/-- Settles O10: the reset state is the one R26 writes out. -/
theorem resetLeavesNoValues : Obligations.ResetLeavesNoValues :=
  ⟨rfl, reset_ecause, reset_err, reset_ovf, reset_cal, reset_raw, reset_temp, reset_pPa, reset_pQ8, reset_coef⟩

/-- Settles O58: the start of a run is a state the reset input leaves, with events presented. -/
theorem resetIsConsistent : Obligations.ResetIsConsistent := fun events =>
  consistent_setPort (consistent_assertReset (s := State.reset)) events

/-- R28: its invariants hold at reset and every step keeps them, so they hold of every reachable state. -/
theorem consistent_of_reachable {s : State} (h : Reachable s) : Consistent s := by
  induction h with
  | start events => exact resetIsConsistent events
  | step _ hstep ih => exact stepKeepsConsistency _ _ ih hstep

/-- R25, U13: with `ERR` and `ECAUSE` matching, the cause is never one of the two codes R90 leaves unused. -/
theorem ecause_le_five {s : State} (h : CauseMatchesErr s) : s.ecause.toNat ≤ 5 := by
  obtain ⟨hset, hclear⟩ := h
  cases he : s.err with
  | false => simp [hclear.1 he]
  | true => exact (hset.1 he).2

/-- Settles O19: R28(d) on reachable states, and what a step does to `ERR` and `ECAUSE`. -/
theorem ecauseHoldsTheFirstFault : Obligations.EcauseHoldsTheFirstFault := by
  intro s hs
  obtain ⟨-, -, -, hcause, -⟩ := consistent_of_reachable hs
  have hle := ecause_le_five hcause
  refine ⟨hcause.2.symm, ?_, ?_, fun t h => step_sets_err h, fun t h he hr => ?_⟩
  · rintro h6
    simp [h6] at hle
  · rintro h7
    simp [h7] at hle
  · obtain ⟨port, rfl⟩ := step_of_err h he hr
    exact ⟨he, rfl⟩

end Sys2Proof.Proofs

/-! PROOFS. The memory family: the request the host presents at the boundary, which byte strings are one, and what
issuing a request a second time does. -/

namespace Sys2Proof.Proofs

open Sys2Proof.Machine

/-! ## One request at the boundary -/

section Decoded
variable {bytes rest : List Byte} {i : Instr} {cmd : Byte}

/-- R36: bytes that are exactly one request of a row are put to `exec`. -/
theorem performRequest_of_instr (hd : decode bytes = .instr i []) (s : State) : performRequest bytes s = exec i s := by
  simp [performRequest, hd]

/-- R43: bytes that are exactly one illegal command byte are the illegal request. -/
theorem performRequest_of_illegalOp (hd : decode bytes = .illegalOp cmd []) (s : State) :
    performRequest bytes s = illegalRequest s := by
  simp [performRequest, hd]

/-- R34: a payload cut short is no request. -/
theorem performRequest_of_shortPayload (hd : decode bytes = .shortPayload cmd) (s : State) :
    performRequest bytes s = .refused .payloadLength := by
  simp [performRequest, hd]

/-- R34: bytes left over after a request make the string no request. -/
theorem performRequest_of_left_over
    (hd : (∃ i, decode bytes = .instr i rest) ∨ decode bytes = .illegalOp cmd rest) (hr : rest ≠ []) (s : State) :
    performRequest bytes s = .refused .payloadLength := by
  obtain ⟨b, rest', rfl⟩ := List.exists_cons_of_ne_nil hr
  obtain ⟨i, hd⟩ | hd := hd <;> simp [performRequest, hd]

end Decoded

/-- An illegal request never stops the model. -/
theorem illegalRequest_next (s : State) : ∃ t, illegalRequest s = .next t := by
  obtain ⟨-, h⟩ | ⟨-, f, -, h⟩ | ⟨-, t, -, h⟩ := perform_cases s (.error .illegalOp)
  exacts [⟨_, h⟩, ⟨_, h⟩, ⟨_, h⟩]

/-- Settles O6: the step takes the bytes, and the boundary check puts the request to `exec`. -/
theorem stepPerformsTheDecodedRequest : Obligations.StepPerformsTheDecodedRequest := by
  intro s bytes i port hp hd
  rw [step_request hp, performRequest_of_instr hd]

/-! ## The length of a request -/

section Length
variable {cmd : Byte} {rest : List Byte}

/-- R41: the command byte of `LDCAL` selects its row, whatever follows. -/
theorem decode_ldcal_byte (rest : List Byte) : decode (0x01#8 :: rest) = decodeOperands .ldcal 0x01#8 rest := rfl

/-- R41: the command byte of `LDRAW` selects its row, whatever follows. -/
theorem decode_ldraw_byte (rest : List Byte) : decode (0x02#8 :: rest) = decodeOperands .ldraw 0x02#8 rest := rfl

/-- R44: every command byte but those of `LDCAL` and `LDRAW` is a whole request. -/
theorem requestLength_bare (hc : cmd ≠ 0x01#8) (hr : cmd ≠ 0x02#8) : requestLength cmd = 1 := by
  rw [requestLength, if_neg hc, if_neg hr]

/-- R44: after a command byte that is a whole request, the decoder leaves all that follows. -/
theorem decode_bare (hc : cmd ≠ 0x01#8) (hr : cmd ≠ 0x02#8) (rest : List Byte) :
    (∃ i, decode (cmd :: rest) = .instr i rest) ∨ decode (cmd :: rest) = .illegalOp cmd rest := by
  cases hs : selectRow cmd with
  | none => exact .inr (by rw [decode, hs])
  | some row =>
    left
    rcases selectRow_inv hs with ⟨-, h⟩ | ⟨-, h⟩ | ⟨hop, -⟩ | ⟨hop, -⟩ | ⟨hop, -⟩ | ⟨hop, -⟩ | ⟨hop, -⟩
    · exact absurd h hc
    · exact absurd h hr
    all_goals simp [decode, hs, hop, decodeOperands]

/-- R34, R44: with fewer bytes than the command byte asks for, the decoder reads no request. -/
theorem decode_of_length_lt (h : (cmd :: rest).length < requestLength cmd) :
    decode (cmd :: rest) = .shortPayload cmd := by
  by_cases hc : cmd = 0x01#8
  · subst hc
    rw [decode_ldcal_byte, decodeOperands, takeBuf_of_lt (Nat.lt_of_succ_lt_succ h)]
  by_cases hr : cmd = 0x02#8
  · subst hr
    rw [decode_ldraw_byte, decodeOperands, takeBuf_of_lt (Nat.lt_of_succ_lt_succ h)]
  · simp [requestLength_bare hc hr] at h

/-- R44: with at least as many bytes as the command byte asks for, the decoder takes exactly that many. -/
theorem decode_of_le_length (h : requestLength cmd ≤ (cmd :: rest).length) :
    (∃ i, decode (cmd :: rest) = .instr i ((cmd :: rest).drop (requestLength cmd))) ∨
    decode (cmd :: rest) = .illegalOp cmd ((cmd :: rest).drop (requestLength cmd)) := by
  by_cases hc : cmd = 0x01#8
  · subst hc
    obtain ⟨buf, hb⟩ := takeBuf_of_le (Nat.le_of_succ_le_succ h)
    exact .inl ⟨.ldcal buf, by rw [decode_ldcal_byte, decodeOperands, hb]; rfl⟩
  by_cases hr : cmd = 0x02#8
  · subst hr
    obtain ⟨buf, hb⟩ := takeBuf_of_le (Nat.le_of_succ_le_succ h)
    exact .inl ⟨.ldraw buf, by rw [decode_ldraw_byte, decodeOperands, hb]; rfl⟩
  · rw [requestLength_bare hc hr]
    exact decode_bare hc hr rest

/-- R34, R39: a byte string as long as its command byte says is performed. -/
theorem performRequest_of_length_eq (h : (cmd :: rest).length = requestLength cmd) (s : State) :
    ∃ t, performRequest (cmd :: rest) s = .next t := by
  have hdrop : (cmd :: rest).drop (requestLength cmd) = [] := List.drop_eq_nil_of_le h.le
  obtain ⟨i, hd⟩ | hd := decode_of_le_length h.ge <;> rw [hdrop] at hd
  · rw [performRequest_of_instr hd]
    exact exec_next i s
  · rw [performRequest_of_illegalOp hd]
    exact illegalRequest_next s

/-- R34: a byte string shorter or longer than its command byte says is refused. -/
theorem performRequest_of_length_ne (h : (cmd :: rest).length ≠ requestLength cmd) (s : State) :
    performRequest (cmd :: rest) s = .refused .payloadLength := by
  obtain hlt | hgt := Nat.lt_or_gt_of_ne h
  · exact performRequest_of_shortPayload (decode_of_length_lt hlt) s
  · have hdrop : (cmd :: rest).drop (requestLength cmd) ≠ [] := by
      simpa [List.drop_eq_nil_iff] using hgt
    exact performRequest_of_left_over (decode_of_le_length hgt.le) hdrop s

end Length

/-- Settles O8: no byte at all is refused, and of the other byte strings those of a wrong length are. -/
theorem exactlyMalformedRequestsAreRefused : Obligations.ExactlyMalformedRequestsAreRefused := by
  intro s bytes port hp
  rw [step_request hp]
  cases bytes with
  | nil => exact ⟨fun _ => rfl, fun _ _ _ h => by cases h⟩
  | cons cmd rest =>
    constructor
    · intro h
      exact performRequest_of_length_ne (h cmd rest rfl) _
    · rintro href _ _ ⟨⟩ hlen
      obtain ⟨t, ht⟩ := performRequest_of_length_eq hlen (setPort port s)
      rw [ht] at href
      cases href

/-! ## A request issued again -/

section Again
variable (s : State)

/-- R69: the same sample loaded again, its results already dropped. -/
@[simp] theorem loadRaw_loadRaw (raw : RawPair) : loadRaw raw (loadRaw raw s) = loadRaw raw s := rfl

/-- R24, R73: the same temperature written again; `OVF` takes the same flag a second time. -/
@[simp] theorem writeTemp_writeTemp (temp : TempPair) (ovf : Bool) :
    writeTemp temp ovf (writeTemp temp ovf s) = writeTemp temp ovf s := by
  simp [writeTemp]

/-- R24, R81: the same pressure written again; `OVF` takes the same flag a second time. -/
@[simp] theorem writePPa_writePPa (p : U32) (ovf : Bool) :
    writePPa p ovf (writePPa p ovf s) = writePPa p ovf s := by
  simp [writePPa]

/-- R24, R87: the same pressure written again; `OVF` takes the same flag a second time. -/
@[simp] theorem writePQ8_writePQ8 (p : U32) (ovf : Bool) :
    writePQ8 p ovf (writePQ8 p ovf s) = writePQ8 p ovf s := by
  simp [writePQ8]

/-- R65, R66: the same coefficient read back again. -/
@[simp] theorem writeCoef_writeCoef (v : S32) : writeCoef v (writeCoef v s) = writeCoef v s := rfl

end Again

/-- R65, R66, R96: with every check passed a read back writes the coefficient its index names. -/
theorem exec_readBack_completes {i : Instr} {s : State} {cal : Cal} {idx : BitVec 4} {c : Coef}
    (he : s.err = false) (hc : s.cal = some cal)
    (hi : i = .rdtc idx ∧ tCoef idx = some c ∨ i = .rdpc idx ∧ pCoef idx = some c) :
    exec i s = .next (writeCoef (coef32 cal c) s) := by
  obtain ⟨rfl, hi⟩ | ⟨rfl, hi⟩ := hi
  · simp [exec_rdtc, he, hi, hc]
  · simp [exec_rdpc, he, hi, hc]

/-- Settles O53: ignored or faulted, `ERR` = 1 makes CORE ignore the request the second time; performed, it left the
operands it reads as they were, so the second time it writes the same values. -/
theorem repeatingARequestChangesNothing : Obligations.RepeatingARequestChangesNothing := by
  intro i s t hi h
  rcases exec_cases h with ⟨he, rfl⟩ | ⟨-, f, rfl⟩ | ⟨-, buf, rfl, -, -⟩ | ⟨he, m, rfl, rfl⟩ |
    ⟨he, rfl, cal, raw, hcal, hraw, rfl⟩ | ⟨he, rfl, cal, raw, temp, hcal, hraw, htemp, rfl⟩ |
    ⟨he, rfl, cal, raw, temp, hcal, hraw, htemp, rfl⟩ | ⟨he, idx, c, cal, hread, hcal, rfl⟩
  · exact exec_of_err he i
  · exact exec_of_err (raise_err s f) i
  · exact absurd rfl (hi buf)
  · simp [exec_ldraw, he]
  · rw [exec_tcomp_completes (s := writeTemp _ _ s) he hcal hraw, writeTemp_writeTemp]
  · rw [exec_pcomp32_completes (s := writePPa _ _ s) he hcal hraw htemp, writePPa_writePPa]
  · rw [exec_pcomp64_completes (s := writePQ8 _ _ s) he hcal hraw htemp, writePQ8_writePQ8]
  · rw [exec_readBack_completes (s := writeCoef _ s) he hcal hread, writeCoef_writeCoef]

end Sys2Proof.Proofs

/-! PROOFS. The encoding family: the decoder and the encoder undo each other, which command bytes are illegal, the
length a command byte fixes, and the lines of a listing read back. -/

namespace Sys2Proof.Proofs

open Sys2Proof.Machine Sys2Proof.Claims

/-! ## The decoder and the encoder -/

/-- R41, R42: a command byte that selects a row is decoded by that row's operands. -/
theorem decode_of_selectRow {cmd : Byte} {row : OpRow} (h : selectRow cmd = some row) (payload : List Byte) :
    decode (cmd :: payload) = decodeOperands row.op cmd payload := by
  rw [decode, h]

/-- Settles O1: the command byte selects the request's row, and the row's operands are read back from where the encoder
put them, the payload or the index field. -/
theorem encodeThenDecodeGivesBack : Obligations.EncodeThenDecodeGivesBack := by
  intro i rest
  cases i with
  | ldcal buf =>
    change decode (0x01#8 :: (buf.toList ++ rest)) = _
    rw [decode_ldcal_byte, decodeOperands, takeBuf_toList_append]
  | ldraw buf =>
    change decode (0x02#8 :: (buf.toList ++ rest)) = _
    rw [decode_ldraw_byte, decodeOperands, takeBuf_toList_append]
  | tcomp => rfl
  | pcomp32 => rfl
  | pcomp64 => rfl
  | rdtc idx =>
    change decode (cmdByte idx 6#3 :: rest) = _
    rw [decode_of_selectRow (selectRow_rdtc idx), decodeOperands, cmdIdx_cmdByte]
  | rdpc idx =>
    change decode (cmdByte idx 7#3 :: rest) = _
    rw [decode_of_selectRow (selectRow_rdpc idx), decodeOperands, cmdIdx_cmdByte]

/-- R39, R44: with nothing after it, a request's encoding decodes to it. -/
theorem decode_encode (i : Instr) : decode (encode i) = .instr i [] := by
  simpa using encodeThenDecodeGivesBack i []

/-- R42: the row of `LDCAL` reads a payload of 24 bytes. -/
theorem decodeOperands_ldcal (cmd : Byte) (payload : List Byte) : decodeOperands .ldcal cmd payload =
    (takeBuf 24 payload).elim (.shortPayload cmd) fun p => .instr (.ldcal p.1) p.2 := by
  rw [decodeOperands]
  cases takeBuf 24 payload <;> rfl

/-- R42: the row of `LDRAW` reads a payload of 6 bytes. -/
theorem decodeOperands_ldraw (cmd : Byte) (payload : List Byte) : decodeOperands .ldraw cmd payload =
    (takeBuf 6 payload).elim (.shortPayload cmd) fun p => .instr (.ldraw p.1) p.2 := by
  rw [decodeOperands]
  cases takeBuf 6 payload <;> rfl

/-- R42: a request read with its payload is made of the bytes it was read from. -/
theorem payload_inv {n : Nat} {cmd : Byte} {payload rest : List Byte} {withPayload : Vector Byte n → Instr}
    {i : Instr}
    (h : (takeBuf n payload).elim (Decoded.shortPayload cmd) (fun p => .instr (withPayload p.1) p.2) = .instr i rest) :
    ∃ buf, i = withPayload buf ∧ payload = buf.toList ++ rest := by
  cases hb : takeBuf n payload with
  | none => simp [hb] at h
  | some p =>
    rw [hb] at h
    obtain ⟨rfl, rfl⟩ := Decoded.instr.inj h
    exact ⟨p.1, rfl, takeBuf_inv hb⟩

/-- Settles O2: the byte that selects a row is that row's command byte (`selectRow_inv`), and the operands are the bytes
they were taken from. -/
theorem decodedBytesAreTheEncoding : Obligations.DecodedBytesAreTheEncoding := by
  intro bytes rest i h
  cases bytes with
  | nil => cases h
  | cons cmd payload =>
    cases hs : selectRow cmd with
    | none => simp [decode, hs] at h
    | some row =>
      rw [decode_of_selectRow hs] at h
      rcases selectRow_inv hs with ⟨hop, hcmd⟩ | ⟨hop, hcmd⟩ | ⟨hop, hcmd⟩ | ⟨hop, hcmd⟩ | ⟨hop, hcmd⟩ |
        ⟨hop, hcmd⟩ | ⟨hop, hcmd⟩ <;> rw [hop] at h
      · rw [decodeOperands_ldcal] at h
        obtain ⟨buf, rfl, rfl⟩ := payload_inv h
        rw [hcmd, encode, List.cons_append]
      · rw [decodeOperands_ldraw] at h
        obtain ⟨buf, rfl, rfl⟩ := payload_inv h
        rw [hcmd, encode, List.cons_append]
      all_goals
        obtain ⟨rfl, rfl⟩ := Decoded.instr.inj h
        rw [encode, ← hcmd, List.singleton_append]

/-! ## Legal and illegal command bytes -/

/-- R43 (d): the command byte of `RDTC` is illegal exactly where its index is. -/
theorem cmdIllegal_rdtc : ∀ idx, cmdIllegal (cmdByte idx 6#3) = !(Instr.rdtc idx).wellFormed := by decide

/-- R43 (e): the command byte of `RDPC` is illegal exactly where its index is. -/
theorem cmdIllegal_rdpc : ∀ idx, cmdIllegal (cmdByte idx 7#3) = !(Instr.rdpc idx).wellFormed := by decide

/-- R43: a request of a row is well formed exactly when its command byte is none of the illegal ones. -/
theorem cmdIllegal_of_decode {cmd : Byte} {payload rest : List Byte} {i : Instr}
    (h : decode (cmd :: payload) = .instr i rest) : cmdIllegal cmd = !i.wellFormed := by
  have hbytes := decodedBytesAreTheEncoding _ _ _ h
  cases i <;> obtain rfl := List.head_eq_of_cons_eq hbytes
  case rdtc idx => exact cmdIllegal_rdtc idx
  case rdpc idx => exact cmdIllegal_rdpc idx
  all_goals rfl

/-- R43 (a) to (c): a command byte that selects no row is illegal. -/
theorem cmdIllegal_of_selectRow_none : ∀ cmd, selectRow cmd = none → cmdIllegal cmd = true := by decide

/-- R43: the illegal bytes are all but the 17 listed ones. -/
theorem cmdIllegal_eq_false_iff : ∀ cmd, cmdIllegal cmd = false ↔ cmd ∈ legalBytes := by decide

/-- R41, R47: a well-formed request for each legal command byte, the read backs being those of `DUMPCAL`. -/
def legalRequests : List Instr :=
  [.ldcal (Vector.replicate 24 0), .ldraw (Vector.replicate 6 0), .tcomp, .pcomp32, .pcomp64] ++ expandPseudo .dumpcal

/-- R43: they are well formed. -/
theorem legalRequests_wellFormed : ∀ i ∈ legalRequests, i.wellFormed = true := by decide

/-- R43: the command bytes of `legalRequests` are the listed ones, in their order. -/
theorem legalRequests_bytes : legalRequests.map (fun i => (encode i).head?) = legalBytes.map some := by decide

/-- R43: every listed byte is the command byte of a well-formed request. -/
theorem exists_request_of_mem_legalBytes {cmd : Byte} (h : cmd ∈ legalBytes) :
    ∃ i, i.wellFormed = true ∧ (encode i).head? = some cmd := by
  have hmem : some cmd ∈ legalRequests.map fun i => (encode i).head? := by
    rw [legalRequests_bytes]
    exact List.mem_map_of_mem h
  obtain ⟨i, hi, hcmd⟩ := List.mem_map.1 hmem
  exact ⟨i, legalRequests_wellFormed i hi, hcmd⟩

/-- R96: the check of legality comes first. -/
theorem firstFault_of_not_wellFormed {i : Instr} (h : i.wellFormed = false) (s : State) :
    firstFault i s = some .illegalOp := if_pos h

/-- R91: a well-formed request fails no check of legality. -/
theorem firstFault_ne_illegalOp {i : Instr} (h : i.wellFormed = true) (s : State) :
    firstFault i s ≠ some .illegalOp := by
  unfold firstFault
  rw [if_neg (by simp [h])]
  cases i with
  | ldraw => simp
  | _ =>
    simp only
    split_ifs <;> simp

/-- R91, R96: an illegal request of a row raises `IllegalOp`. -/
theorem exec_of_not_wellFormed {i : Instr} {s : State} (h : i.wellFormed = false) (he : s.err = false) :
    exec i s = .next (raise .illegalOp s) := by
  have hfirst := firstFault_of_not_wellFormed h s
  obtain ⟨f, hf, hx⟩ | ⟨hf, -⟩ := exec_checks i he
  · obtain rfl : f = .illegalOp := by simpa [hfirst] using hf.symm
    exact hx
  · simp [hfirst] at hf

/-- R43: an illegal byte is no legal one. -/
theorem ne_of_cmdIllegal {cmd legal : Byte} (h : cmdIllegal cmd = true) (hl : cmdIllegal legal = false) :
    cmd ≠ legal := by
  rintro rfl
  simp [h] at hl

/-- R43, R91: an illegal command byte raises `IllegalOp`, in the operation where it selects a row (entry 4), else in the
request. -/
theorem performRequest_of_cmdIllegal {cmd : Byte} {s : State} (h : cmdIllegal cmd = true) (he : s.err = false) :
    performRequest [cmd] s = .next (raise .illegalOp s) := by
  obtain ⟨i, hd⟩ | hd := decode_bare (ne_of_cmdIllegal h rfl) (ne_of_cmdIllegal h rfl) []
  · have hi : i.wellFormed = false := by simpa [h] using cmdIllegal_of_decode hd
    rw [performRequest_of_instr hd, exec_of_not_wellFormed hi he]
  · rw [performRequest_of_illegalOp hd, illegalRequest, perform_error he]

/-- R41: no row's operands are rejected as an illegal command byte. -/
theorem decodeOperands_ne_illegalOp (op : Op) (cmd c : Byte) (payload rest : List Byte) :
    decodeOperands op cmd payload ≠ .illegalOp c rest := by
  cases op with
  | ldcal =>
    rw [decodeOperands_ldcal]
    cases takeBuf 24 payload <;> simp
  | ldraw =>
    rw [decodeOperands_ldraw]
    cases takeBuf 6 payload <;> simp
  | _ => simp [decodeOperands]

/-- R43 (a) to (c): what the decoder rejects as an illegal command byte is one. -/
theorem cmdIllegal_of_decode_illegalOp {cmd c : Byte} {payload rest : List Byte}
    (h : decode (cmd :: payload) = .illegalOp c rest) : cmdIllegal cmd = true := by
  cases hs : selectRow cmd with
  | none => exact cmdIllegal_of_selectRow_none cmd hs
  | some row =>
    rw [decode_of_selectRow hs] at h
    exact absurd h (decodeOperands_ne_illegalOp _ _ _ _ _)

/-- R43: no request with a legal command byte fails the check of legality. -/
theorem requestFault_of_legal {cmd : Byte} (h : cmdIllegal cmd = false) (payload : List Byte) (s : State) :
    requestFault (cmd :: payload) s ≠ some .illegalOp := by
  unfold requestFault
  split
  case h_1 i hd => exact firstFault_ne_illegalOp (by simpa [h] using cmdIllegal_of_decode hd) s
  case h_2 c hd => simp [cmdIllegal_of_decode_illegalOp hd] at h
  all_goals simp

/-- R90: the five cause codes differ. -/
theorem faultCode_injective : Function.Injective faultCode := by
  intro f g
  cases f <;> cases g <;> decide

/-- R90, R97: fault entry tells the five faults apart. -/
theorem raise_injective {f g : FaultCause} {s : State} (h : raise f s = raise g s) : f = g :=
  faultCode_injective (congrArg State.ecause h)

/-- Settles O3: an illegal byte fails the check of legality, which comes first, and a request that enters a fault enters
the one of the check it failed. -/
theorem exactlyTheIllegalBytesRaiseIllegalOp : Obligations.ExactlyTheIllegalBytesRaiseIllegalOp := by
  refine ⟨rfl, by decide, fun cmd => ⟨cmdIllegal_eq_false_iff cmd, exists_request_of_mem_legalBytes,
    fun s => performRequest_of_cmdIllegal, ?_⟩⟩
  intro s payload hlegal he hraise
  obtain ⟨f, hf, hsame⟩ := performRequest_sets_err he hraise (raise_err s .illegalOp)
  obtain rfl := raise_injective hsame
  exact requestFault_of_legal hlegal payload s hf

/-! ## The length a command byte fixes -/

/-- R43, R44: an illegal byte is none of the two that have a payload. -/
theorem requestLength_of_cmdIllegal {cmd : Byte} (h : cmdIllegal cmd = true) : requestLength cmd = 1 :=
  requestLength_bare (ne_of_cmdIllegal h rfl) (ne_of_cmdIllegal h rfl)

/-- Settles O4: the lengths are those of the table, and the decoder reads a request exactly where there are
enough bytes. -/
theorem commandByteFixesRequestLength : Obligations.CommandByteFixesRequestLength := fun _ _ =>
  ⟨rfl, rfl, requestLength_bare, requestLength_of_cmdIllegal, decode_of_length_lt, decode_of_le_length⟩

/-- Settles O5: each word is one fixed byte string, and the decoder computes. -/
theorem writtenOutWordsDecode : Obligations.WrittenOutWordsDecode := by
  unfold Obligations.WrittenOutWordsDecode
  decide

/-! ## The lines of a listing read back -/

/-- R46: a space after a line begins no further word. -/
theorem lineWords_trailing_space (word chars : List Char) :
    lineWords word (chars ++ [' ']) = lineWords word chars := by
  induction chars generalizing word with
  | nil => by_cases hw : word = [] <;> simp [lineWords, hw]
  | cons c chars ih => simp only [List.cons_append, lineWords, ih]

/-- R46: a line without a semicolon is read whole. -/
theorem beforeComment_of_no_semicolon {line : List Char} (h : ';' ∉ line) : beforeComment line = line := by
  rw [beforeComment, List.takeWhile_eq_self_iff]
  rintro c hc
  simpa using ne_of_mem_of_not_mem hc h

/-- R46: what follows the semicolon is not read. -/
theorem beforeComment_append_comment {line : List Char} (h : ';' ∉ line) (note : List Char) :
    beforeComment (line ++ ';' :: note) = line := by
  have hall : ∀ c ∈ line, (c != ';') = true := fun c hc => by simpa using ne_of_mem_of_not_mem hc h
  rw [beforeComment, List.takeWhile_append_of_pos hall]
  simp

/-- R46: a comment changes nothing of what a line says. -/
theorem readLine_append_comment {line : List Char} (h : ';' ∉ line) (note : List Char) :
    readLine (line ++ ' ' :: ';' :: note) = readLine line := by
  have hwords : lineWords [] (beforeComment (line ++ ' ' :: ';' :: note)) = lineWords [] (beforeComment line) := by
    have hspace : ';' ∉ line ++ [' '] := by simp [h]
    rw [List.append_cons, beforeComment_append_comment hspace, beforeComment_of_no_semicolon h,
      lineWords_trailing_space]
  rw [readLine, hwords, readLine]

/-- R46: the operands of a line are the words after the one begun. -/
theorem lineWords_hexOperands {word : List Char} (hw : word ≠ []) (bytes : List Byte) :
    lineWords word (hexOperands bytes) = word :: bytes.map hexByte := by
  induction bytes generalizing word with
  | nil => simp [hexOperands, lineWords, hw]
  | cons b bytes ih =>
    obtain ⟨hspace, -, hne, -⟩ := hexByte_reads b
    change lineWords word (' ' :: (hexByte b ++ hexOperands bytes)) = _
    rw [lineWords, if_pos rfl, if_neg hw, lineWords_append _ _ _ hspace, List.nil_append, ih hne, List.map_cons]

/-- R46: the operands of a line begin no comment. -/
theorem no_semicolon_hexOperands (bytes : List Byte) : ';' ∉ hexOperands bytes := by
  simp only [hexOperands, List.mem_flatMap, not_exists, not_and]
  rintro b -
  obtain ⟨-, hsemi, -, -⟩ := hexByte_reads b
  simpa using hsemi

/-- R46: the words of a mnemonic with bytes after it. -/
theorem lineWords_hexLine {mnemonic : List Char} (h : mnemonic ≠ [] ∧ ' ' ∉ mnemonic ∧ ';' ∉ mnemonic)
    (bytes : List Byte) :
    lineWords [] (beforeComment (mnemonic ++ hexOperands bytes)) = mnemonic :: bytes.map hexByte := by
  obtain ⟨hne, hspace, hsemi⟩ := h
  rw [beforeComment_of_no_semicolon (by simp [hsemi, no_semicolon_hexOperands]), lineWords_append _ _ _ hspace,
    List.nil_append, lineWords_hexOperands hne]

/-- R46: written bytes read back, each as it was. -/
theorem mapM_readByte_hexBytes (bytes : List Byte) : (bytes.map hexByte).mapM readByte = some bytes := by
  induction bytes with
  | nil => rfl
  | cons b bytes ih =>
    obtain ⟨-, -, -, hread⟩ := hexByte_reads b
    simp [hread, ih]

/-- R46: a written payload reads back. -/
theorem readBuf_hexBytes {n : Nat} (buf : Vector Byte n) : readBuf n (buf.toList.map hexByte) = some buf := by
  have htake : takeBuf n buf.toList = some (buf, []) := by simpa using takeBuf_toList_append buf []
  rw [readBuf, mapM_readByte_hexBytes]
  simp only [htake]

/-- R46: a `.byte` line is its mnemonic with one byte after it. -/
theorem lineText_rawByte (b : Byte) : lineText (.rawByte b) = ['.', 'b', 'y', 't', 'e'] ++ hexOperands [b] := rfl

/-- R46: no written line holds a semicolon. -/
theorem no_semicolon_lineText (line : SourceLine) : ';' ∉ lineText line := by
  match line with
  | .op (.ldcal buf) => simpa [lineText] using no_semicolon_hexOperands buf.toList
  | .op (.ldraw buf) => simpa [lineText] using no_semicolon_hexOperands buf.toList
  | .op .tcomp => decide
  | .op .pcomp32 => decide
  | .op .pcomp64 => decide
  | .op (.rdtc idx) => revert idx; decide
  | .op (.rdpc idx) => revert idx; decide
  | .reset => decide
  | .rawByte b =>
    rw [lineText_rawByte]
    simpa using no_semicolon_hexOperands [b]

/-- R46: a legal index of `RDTC` reads back. -/
theorem readLine_rdtc : ∀ idx, (Instr.rdtc idx).wellFormed = true →
    readLine (lineText (.op (.rdtc idx))) = some [.op (.rdtc idx)] := by decide

/-- R46: a legal index of `RDPC` reads back. -/
theorem readLine_rdpc : ∀ idx, (Instr.rdpc idx).wellFormed = true →
    readLine (lineText (.op (.rdpc idx))) = some [.op (.rdpc idx)] := by decide

/-- R46: the text of a legal line reads back. -/
theorem readLine_lineText (line : SourceLine) (h : ∀ i, line = .op i → i.wellFormed = true) :
    readLine (lineText line) = some [line] := by
  match line with
  | .op (.ldcal buf) =>
    have hwords := lineWords_hexLine (mnemonic := ['L', 'D', 'C', 'A', 'L']) (by decide) buf.toList
    rw [readLine, lineText, hwords]
    simp [readBuf_hexBytes, operationLine, Instr.wellFormed]
  | .op (.ldraw buf) =>
    have hwords := lineWords_hexLine (mnemonic := ['L', 'D', 'R', 'A', 'W']) (by decide) buf.toList
    rw [readLine, lineText, hwords]
    simp [readBuf_hexBytes, operationLine, Instr.wellFormed]
  | .op .tcomp => decide
  | .op .pcomp32 => decide
  | .op .pcomp64 => decide
  | .op (.rdtc idx) => exact readLine_rdtc idx (h _ rfl)
  | .op (.rdpc idx) => exact readLine_rdpc idx (h _ rfl)
  | .reset => decide
  | .rawByte b =>
    obtain ⟨-, -, -, hread⟩ := hexByte_reads b
    have hwords := lineWords_hexLine (mnemonic := ['.', 'b', 'y', 't', 'e']) (by decide) [b]
    rw [readLine, lineText_rawByte, hwords]
    simp [hread]

/-- Settles O9: the words of a written line read back as the line, a comment changes none of them, and the step takes
what the line presents. -/
theorem listingLinesReadBackAndPresentTheirBytes : Obligations.ListingLinesReadBackAndPresentTheirBytes := by
  intro line hlegal
  refine ⟨readLine_lineText line hlegal, fun note => ?_, fun s port hp => ?_⟩
  · rw [readLine_append_comment (no_semicolon_lineText line), readLine_lineText line hlegal]
  · cases line with
    | op i => exact stepPerformsTheDecodedRequest s (encode i) i port hp (decode_encode i)
    | reset => exact step_reset hp
    | rawByte b => exact step_request hp

end Sys2Proof.Proofs

/-! PROOFS. The arithmetic family: each primitive of 40_arithmetic narrows its exact result, and the primitives whose
exact result is the number of a pattern of the result type answer that pattern without `ovf`. -/

namespace Sys2Proof.Proofs

open Sys2Proof.Machine Sys2Proof.Claims

/-! ## Narrowing, R49 -/

/-- R49: the signed wrap of the exact result, with both of its clauses. -/
theorem narrowsSigned_narrowS {n : Nat} (hn : 0 < n) (e : Int) : NarrowsSigned n (narrowS n e) e := by
  constructor
  · intro hfits
    have hovf := narrowS_ovf_eq_false.2 hfits
    exact ⟨narrowS_exact hn hovf, hovf⟩
  · intro hout
    have hcongr : ((2 ^ n : Nat) : Int) ∣ e.bmod (2 ^ n) - e := Int.dvd_bmod_sub_self
    refine ⟨?_, by simpa [← narrowS_ovf_eq_false] using hout⟩
    rw [narrowS_value, BitVec.toInt_ofInt]
    exact_mod_cast hcongr

/-- R49: the unsigned wrap of the exact result, with both of its clauses. -/
theorem narrowsUnsigned_narrowU (n : Nat) (e : Int) : NarrowsUnsigned n (narrowU n e) e := by
  constructor
  · intro hfits
    have hovf := narrowU_ovf_eq_false.2 hfits
    exact ⟨narrowU_exact hovf, hovf⟩
  · intro hout
    refine ⟨?_, by simpa [← narrowU_ovf_eq_false] using hout⟩
    rw [narrowU_value, ofInt_congr]
    exact Int.dvd_emod_sub_self

/-- R49: the signed number of a pattern narrows to the pattern. -/
theorem narrowS_toInt {n : Nat} (b : BitVec n) : narrowS n b.toInt = noPrimitive b := by
  have hovf : (narrowS n b.toInt).ovf = false := narrowS_ovf_eq_false.2 ⟨b.le_toInt, b.toInt_lt⟩
  rw [noPrimitive, ← hovf]
  simp [narrowS]

/-- R49: the unsigned number of a pattern narrows to the pattern. -/
theorem narrowU_toNat {n : Nat} (b : BitVec n) : narrowU n b.toNat = noPrimitive b := by
  have hovf : (narrowU n b.toNat).ovf = false :=
    narrowU_ovf_eq_false.2 ⟨Int.natCast_nonneg _, by exact_mod_cast b.isLt⟩
  rw [noPrimitive, ← hovf]
  simp [narrowU]

/-! ## The shifts right and the quotients -/

/-- R52: the number of the sign-propagating shift is the floor of the quotient. -/
theorem toInt_sshiftRight_eq_ediv {n : Nat} (a : BitVec n) (k : Nat) :
    (a.sshiftRight k).toInt = a.toInt / 2 ^ k := by
  rw [BitVec.toInt_sshiftRight, Int.shiftRight_eq_div_pow]
  push_cast
  rfl

/-- R52: the two sides of the floor. -/
theorem sshiftRight_floor {n : Nat} (a : BitVec n) (k : Nat) :
    2 ^ k * (a.sshiftRight k).toInt ≤ a.toInt ∧ a.toInt < 2 ^ k * ((a.sshiftRight k).toInt + 1) := by
  rw [toInt_sshiftRight_eq_ediv, mul_add, mul_one]
  exact ⟨Int.mul_ediv_self_le (by positivity), Int.lt_mul_ediv_self_add (by positivity)⟩

/-- R52: -1 is all ones, and so is every shift of it. -/
theorem sshiftRight_neg_one (n k : Nat) : (-1#n).sshiftRight k = -1#n := by
  rw [BitVec.neg_one_eq_allOnes, ← BitVec.not_zero, ← BitVec.not_sshiftRight, BitVec.zero_sshiftRight]

/-- R52: the shift of a pattern is a pattern of the same type, so it fits. -/
theorem asr32_eq (a : S32) (k : Nat) : asr32 a k = noPrimitive (a.sshiftRight k) := by
  rw [asr32, ← toInt_sshiftRight_eq_ediv, narrowS_toInt]

/-- R52 and R55: the same at width 64. -/
theorem asr64_eq (a : S64) (k : Nat) : asr64 a k = noPrimitive (a.sshiftRight k) := by
  rw [asr64, ← toInt_sshiftRight_eq_ediv, narrowS_toInt]

/-- R53: the logical shift fits. -/
theorem lsr32_eq (a : U32) (k : Nat) : lsr32 a k = noPrimitive (a >>> k) := by
  have hnat : ((a >>> k).toNat : Int) = (a.toNat : Int) / 2 ^ k := by simp [Nat.shiftRight_eq_div_pow]
  rw [lsr32, ← hnat, narrowU_toNat]

/-- R53: the quotient by a nonzero divisor fits. -/
theorem divu32_eq (a : U32) {b : U32} (hb : b ≠ 0#32) : divu32 a b = noPrimitive (a / b) := by
  have hnat : ((a / b).toNat : Int) = (a.toNat : Int) / (b.toNat : Int) := by simp
  rw [divu32_of_ne hb, ← hnat, narrowU_toNat]

/-- R56: the truncated quotient fits in every case but one. -/
theorem sdiv64_eq {a b : S64} (hb : b ≠ 0#64) (h : a ≠ BitVec.intMin 64 ∨ b ≠ -1#64) :
    sdiv64 a b = noPrimitive (a.sdiv b) := by
  rw [sdiv64_of_ne hb, ← BitVec.toInt_sdiv_of_ne_or_ne a b h, narrowS_toInt]

/-- R56: the one case in which the quotient, 2^63, does not fit. -/
theorem sdiv64_intMin_neg_one : sdiv64 (BitVec.intMin 64) (-1#64) = ⟨BitVec.intMin 64, true⟩ := by decide

/-! ## The conversions -/

/-- R54, R57: wrapping the number of a pattern to a width not above its own keeps the low bits. -/
theorem ofInt_toInt_eq_setWidth {m n : Nat} (h : m ≤ n) (a : BitVec n) : BitVec.ofInt m a.toInt = a.setWidth m := by
  apply BitVec.eq_of_toInt_eq
  rw [BitVec.toInt_ofInt, BitVec.toInt_setWidth, BitVec.toInt_eq_toNat_bmod,
    Int.bmod_bmod_of_dvd (Nat.pow_dvd_pow 2 h)]

/-- R54: the pattern is kept. -/
@[simp] theorem tou32_value (a : S32) : (tou32 a).value = a := BitVec.ofInt_toInt

/-- R54: the pattern is kept. -/
@[simp] theorem tos32_value (a : U32) : (tos32 a).value = a := by simp [tos32]

/-- R54: only a negative number changes. -/
theorem tou32_ovf_iff (a : S32) : (tou32 a).ovf = true ↔ a.toInt < 0 := by
  have hrange := toInt_s32_range a
  rw [← Bool.not_eq_false, tou32, narrowU_ovf_eq_false]
  omega

/-- R54: only a number with the top bit set changes. -/
theorem tos32_ovf_iff (a : U32) : (tos32 a).ovf = true ↔ 2 ^ 31 ≤ a.toNat := by
  have hlt := a.isLt
  rw [← Bool.not_eq_false, tos32, narrowS_ovf_eq_false]
  omega

/-! ## The statements -/

/-- Settles O20: each of the eight is a `narrowS` of the exact result it names. -/
theorem signedPrimitivesNarrowTheExactResult : Obligations.SignedPrimitivesNarrowTheExactResult := by
  have narrows32 := narrowsSigned_narrowS (n := 32) (by decide)
  have narrows64 := narrowsSigned_narrowS (n := 64) (by decide)
  exact ⟨fun _ _ => ⟨narrows32 _, narrows32 _, narrows32 _⟩, fun _ _ _ _ => narrows32 _,
    fun _ _ => ⟨narrows64 _, narrows64 _, narrows64 _⟩, fun _ _ _ _ => narrows64 _, sext64_toInt⟩

/-- Settles O21: the result is the sign-propagating shift, whose number is the floor. -/
theorem arithmeticShiftIsFloorAndNeverOverflows : Obligations.ArithmeticShiftIsFloorAndNeverOverflows := by
  refine ⟨fun a k _ _ => ?_, fun a k _ _ => ?_⟩
  · obtain ⟨hle, hlt⟩ := sshiftRight_floor a k
    rw [asr32_eq, asr32_eq]
    exact ⟨rfl, rfl, hle, hlt, sshiftRight_neg_one 32 k⟩
  · rw [asr64_eq]
    exact ⟨rfl, rfl, sshiftRight_floor a k⟩

/-- Settles O22: the products narrow; the shift and the quotient fit; the conversion of the denominator keeps its
pattern. -/
theorem unsignedPrimitivesNarrowTheExactResult : Obligations.UnsignedPrimitivesNarrowTheExactResult := by
  refine ⟨fun _ _ => narrowsUnsigned_narrowU 32 _, fun a k _ _ => ⟨narrowsUnsigned_narrowU 32 _, ?_⟩,
    fun a b hb => ?_, fun v hv => by rwa [tou32_value]⟩
  · rw [lsr32_eq]
    exact ⟨rfl, rfl, Nat.shiftRight_eq_div_pow _ _⟩
  · rw [divu32_eq a hb]
    exact ⟨rfl, BitVec.toNat_udiv⟩

/-- Settles O23: the pattern is kept, so the two numbers are the two readings of one pattern. -/
theorem conversionsKeepThePattern : Obligations.ConversionsKeepThePattern := by
  refine ⟨fun a => ⟨tou32_value a, tou32_ovf_iff a, ?_⟩, fun a => ⟨tos32_value a, tos32_ovf_iff a, ?_⟩⟩
  · have hread := BitVec.toInt_eq_toNat_cond a
    have hlt := a.isLt
    rw [tou32_value]
    split_ifs at hread ⊢ <;> omega
  · have hread := BitVec.toInt_eq_toNat_cond a
    rw [tos32_value]
    split_ifs at hread ⊢ <;> omega

/-- Settles O24: but for -2^63 by -1 the quotient is a pattern's number, so it fits. -/
theorem signedDivisionTruncates : Obligations.SignedDivisionTruncates := by
  intro a b hb
  split_ifs with h
  · obtain ⟨rfl, rfl⟩ := h
    rw [sdiv64_intMin_neg_one]
    exact ⟨rfl, rfl⟩
  · have hne : a ≠ BitVec.intMin 64 ∨ b ≠ -1#64 := not_and_or.1 h
    rw [sdiv64_eq hb hne]
    exact ⟨rfl, BitVec.toInt_sdiv_of_ne_or_ne a b hne⟩

/-- Settles O25: the wrap keeps the low bits, and without `ovf` it is exact. -/
theorem resultNarrowingKeepsLowBits : Obligations.ResultNarrowingKeepsLowBits := fun a =>
  ⟨ofInt_toInt_eq_setWidth (by decide) a, narrowU_ovf_eq_false, narrowU_exact⟩

end Sys2Proof.Proofs

/-! PROOFS. The calibration family: the parsed table, the coefficient an index names, and what `LDCAL`, `RDTC` and
`RDPC` do and leave unchanged. -/

namespace Sys2Proof.Proofs

open Sys2Proof.Machine Sys2Proof.Claims

/-! ## The parsed table -/

/-- R33(a): the number of a little-endian word. -/
theorem leWord_toNat (lo hi : Byte) : (leWord lo hi).toNat = lo.toNat + 256 * hi.toNat := by
  rw [leWord, BitVec.toNat_append, ← Nat.shiftLeft_add_eq_or_of_lt lo.isLt, Nat.shiftLeft_eq]
  omega

/-- R61: the bytes of word `k`. -/
theorem fParse_get (b : CalBuf) (k : Fin 12) : (fParse b).get k = leWord b[2 * k.val] b[2 * k.val + 1] :=
  Vector.getElem_ofFn k.isLt

/-- Settles O27: word `k` is the little-endian word of its two bytes, so it is a function of them. -/
theorem parseIsLittleEndianInOrder : Obligations.ParseIsLittleEndianInOrder := by
  intro b k
  refine ⟨?_, fun b' hlo hhi => ?_⟩
  · rw [fParse_get, leWord_toNat]
  · rw [fParse_get, fParse_get, hlo, hhi]

/-! ## The number and the pattern of a coefficient -/

/-- R12, R13: the coefficients read unsigned are the first word of each group. -/
theorem coefUnsigned_iff (c : Coef) : coefUnsigned c = true ↔ coefIndex c = 0 ∨ coefIndex c = 3 := by
  cases c <;> decide

/-- R9: a coefficient's word is the table's at its index. -/
theorem coefWord_eq_get (cal : Cal) (c : Coef) : coefWord cal c = cal.get (coefIndex c) := rfl

/-- R62, R63: the number of a coefficient is that of its word. -/
theorem coef32_toInt (cal : Cal) (c : Coef) : (coef32 cal c).toInt = coefNumber cal (coefIndex c) := by
  rw [coefNumber, ← if_congr (coefUnsigned_iff c) rfl rfl]
  cases hu : coefUnsigned c with
  | true => exact coef32_toInt_unsigned cal hu
  | false => exact coef32_toInt_signed cal hu

/-- R62, R63: a coefficient read unsigned is not negative. -/
theorem coef32_nonneg (cal : Cal) {c : Coef} (h : coefUnsigned c = true) : 0 ≤ (coef32 cal c).toInt := by
  rw [coef32_toInt_unsigned cal h]
  exact Int.natCast_nonneg _

/-- R67: what stands above the stored word. -/
def highHalf (unsigned : Prop) [Decidable unsigned] (word : U16) : BitVec 16 :=
  if unsigned ∨ word.msb = false then 0x0000#16 else 0xFFFF#16

/-- R67: a coefficient is its word with the extension above it. -/
theorem coef32_eq_append (cal : Cal) (c : Coef) :
    coef32 cal c = highHalf (coefUnsigned c = true) (coefWord cal c) ++ coefWord cal c := by
  rw [coef32, highHalf]
  cases coefUnsigned c with
  | true => exact BitVec.setWidth_eq_append (by decide)
  | false =>
    refine (BitVec.signExtend_eq_append_of_le (by decide)).trans ?_
    cases (coefWord cal c).msb <;> rfl

/-! ## The coefficient an index names -/

/-- R62, R63: `c` is word `k` of the table, read unsigned exactly where the index `idx` is 1. -/
structure CoefAt (idx : BitVec 4) (k : Fin 12) (c : Coef) : Prop where
  word : coefIndex c = k
  unsigned : coefUnsigned c = true ↔ idx = 1#4

/-- R62: the word and the sign of the coefficient `RDTC` names. -/
theorem coefAt_of_tCoef {idx : BitVec 4} {c : Coef} (h : tCoef idx = some c) :
    CoefAt idx (Fin.ofNat 12 (idx.toNat - 1)) c := by
  have hall : ∀ idx, ∀ c ∈ tCoef idx,
      coefIndex c = Fin.ofNat 12 (idx.toNat - 1) ∧ (coefUnsigned c = true ↔ idx = 1#4) := by decide
  obtain ⟨hword, hunsigned⟩ := hall idx c h
  exact ⟨hword, hunsigned⟩

/-- R63: the word and the sign of the coefficient `RDPC` names. -/
theorem coefAt_of_pCoef {idx : BitVec 4} {c : Coef} (h : pCoef idx = some c) :
    CoefAt idx (Fin.ofNat 12 (2 + idx.toNat)) c := by
  have hall : ∀ idx, ∀ c ∈ pCoef idx,
      coefIndex c = Fin.ofNat 12 (2 + idx.toNat) ∧ (coefUnsigned c = true ↔ idx = 1#4) := by decide
  obtain ⟨hword, hunsigned⟩ := hall idx c h
  exact ⟨hword, hunsigned⟩

/-- R42: the indices of `RDTC` that name a coefficient. -/
theorem tCoef_isSome_iff (idx : BitVec 4) : (tCoef idx).isSome ↔ 1 ≤ idx.toNat ∧ idx.toNat ≤ 3 := by
  rw [← wellFormed_rdtc]
  exact decide_eq_true_iff

/-- R42: the indices of `RDPC` that name a coefficient. -/
theorem pCoef_isSome_iff (idx : BitVec 4) : (pCoef idx).isSome ↔ 1 ≤ idx.toNat ∧ idx.toNat ≤ 9 := by
  rw [← wellFormed_rdpc]
  exact decide_eq_true_iff

/-- R62: a legal index of `RDTC` names word `i - 1`. -/
theorem exists_tCoef {idx : BitVec 4} (h : 1 ≤ idx.toNat ∧ idx.toNat ≤ 3) :
    ∃ c, tCoef idx = some c ∧ CoefAt idx (Fin.ofNat 12 (idx.toNat - 1)) c := by
  obtain ⟨c, hc⟩ := Option.isSome_iff_exists.1 ((tCoef_isSome_iff idx).2 h)
  exact ⟨c, hc, coefAt_of_tCoef hc⟩

/-- R63: a legal index of `RDPC` names word `2 + i`. -/
theorem exists_pCoef {idx : BitVec 4} (h : 1 ≤ idx.toNat ∧ idx.toNat ≤ 9) :
    ∃ c, pCoef idx = some c ∧ CoefAt idx (Fin.ofNat 12 (2 + idx.toNat)) c := by
  obtain ⟨c, hc⟩ := Option.isSome_iff_exists.1 ((pCoef_isSome_iff idx).2 h)
  exact ⟨c, hc, coefAt_of_pCoef hc⟩

section CoefAt
variable {idx : BitVec 4} {k : Fin 12} {c : Coef}

/-- R62, R63: the number read, at both widths. -/
theorem CoefAt.reads (h : CoefAt idx k c) (cal : Cal) :
    (coef32 cal c).toInt = coefNumber cal k ∧ (coef64 cal c).toInt = (coef32 cal c).toInt ∧
    (idx = 1#4 → 0 ≤ (coef32 cal c).toInt) := by
  obtain ⟨rfl, hunsigned⟩ := h
  exact ⟨coef32_toInt cal c, sext64_toInt _, fun hidx => coef32_nonneg cal (hunsigned.2 hidx)⟩

/-- R67: the two halves of what is read. -/
theorem CoefAt.halves (h : CoefAt idx k c) (cal : Cal) :
    (coef32 cal c).extractLsb' 0 16 = cal.get k ∧
    (coef32 cal c).extractLsb' 16 16 = highHalf (idx = 1#4) (cal.get k) := by
  obtain ⟨rfl, hunsigned⟩ := h
  rw [coef32_eq_append]
  refine ⟨BitVec.extractLsb'_append_eq_right, BitVec.extractLsb'_append_eq_left.trans ?_⟩
  simp only [highHalf, hunsigned, coefWord_eq_get]

end CoefAt

/-- Settles O26: a legal index names a coefficient whose word and sign are those of the index, any other names none. -/
theorem accessorsReadTheSignedNumber : Obligations.AccessorsReadTheSignedNumber := by
  refine ⟨fun cal idx => ?_, fun cal idx => ?_⟩ <;> split_ifs with h
  · obtain ⟨c, hc, hat⟩ := exists_tCoef h
    exact ⟨c, hc, hat.reads cal⟩
  · rwa [← tCoef_isSome_iff, Option.not_isSome_iff_eq_none] at h
  · obtain ⟨c, hc, hat⟩ := exists_pCoef h
    exact ⟨c, hc, hat.reads cal⟩
  · rwa [← pCoef_isSome_iff, Option.not_isSome_iff_eq_none] at h

/-! ## The operations -/

/-- Settles O29: a read back completes, and leaves in `COEF` the coefficient whose halves are these. -/
theorem readBackKeepsTheWord : Obligations.ReadBackKeepsTheWord := by
  refine ⟨fun s cal idx he hcal hlo hhi => ?_, fun s cal idx he hcal hlo hhi => ?_⟩
  · obtain ⟨c, hc, hat⟩ := exists_tCoef ⟨hlo, hhi⟩
    exact ⟨_, _, exec_readBack_completes he hcal (.inl ⟨rfl, hc⟩), writeCoef_coef .., hat.halves cal⟩
  · obtain ⟨c, hc, hat⟩ := exists_pCoef ⟨hlo, hhi⟩
    exact ⟨_, _, exec_readBack_completes he hcal (.inr ⟨rfl, hc⟩), writeCoef_coef .., hat.halves cal⟩

/-- R64, R92: with a table loaded `LDCAL` raises `CalLocked`. -/
theorem exec_ldcal_locked {s : State} (he : s.err = false) (hcal : s.cal.isSome) (buf : CalBuf) :
    exec (.ldcal buf) s = .next (raise .calLocked s) := by
  simp [exec_ldcal, he, hcal]

/-- R64, R96: with no table loaded `LDCAL` loads the parsed one. -/
theorem exec_ldcal_completes {s : State} (he : s.err = false) (hcal : s.cal = none) (buf : CalBuf) :
    exec (.ldcal buf) s = .next (loadCal (fParse buf) s) := by
  simp [exec_ldcal, he, hcal]

/-- R65, R66, R93: with no table loaded a read back of a legal index raises `NoCal`. -/
theorem exec_readBack_noCal {i : Instr} {s : State} {idx : BitVec 4} {c : Coef}
    (he : s.err = false) (hcal : s.cal = none)
    (hi : i = .rdtc idx ∧ tCoef idx = some c ∨ i = .rdpc idx ∧ pCoef idx = some c) :
    exec i s = .next (raise .noCal s) := by
  obtain ⟨rfl, hi⟩ | ⟨rfl, hi⟩ := hi
  · simp [exec_rdtc, he, hi, hcal]
  · simp [exec_rdpc, he, hi, hcal]

/-- R65, R66: with every check passed a read back writes the signed number of the word its index names. -/
theorem CoefAt.exec_readBack {i : Instr} {s : State} {cal : Cal} {idx : BitVec 4} {k : Fin 12} {c : Coef}
    (h : CoefAt idx k c) (he : s.err = false) (hcal : s.cal = some cal)
    (hi : i = .rdtc idx ∧ tCoef idx = some c ∨ i = .rdpc idx ∧ pCoef idx = some c) :
    ∃ v, v.toInt = coefNumber cal k ∧ exec i s = .next (writeCoef v s) := by
  obtain ⟨hnumber, -⟩ := h.reads cal
  exact ⟨_, hnumber, exec_readBack_completes he hcal hi⟩

/-- R40: bit 3 of a command byte is 0, so its low half is its operation code. -/
theorem cmdByte_eq_append (idx : BitVec 4) (op : BitVec 3) : cmdByte idx op = idx ++ op.setWidth 4 := by
  revert idx op
  decide

/-- Settles O42: the checks of `LDCAL` are that `ERR` is clear and no table is loaded. -/
theorem ldcalLoadsTheTableOnce : Obligations.LdcalLoadsTheTableOnce := fun buf _ =>
  ⟨rfl, fun he => exec_of_err he _, fun _ _ hill he => performRequest_of_cmdIllegal hill he,
    fun he hcal => exec_ldcal_locked he hcal buf, fun he hcal => exec_ldcal_completes he hcal buf⟩

/-- Settles O44: the index is checked first, then the table; then `COEF` takes the coefficient the index names. -/
theorem rdtcReadsTheTemperatureCoefficient : Obligations.RdtcReadsTheTemperatureCoefficient := by
  intro idx s
  refine ⟨congrArg ([·]) (cmdByte_eq_append idx 6#3), fun he => exec_of_err he _,
    fun _ _ hill he => performRequest_of_cmdIllegal hill he,
    fun he hidx => exec_of_not_wellFormed (decide_eq_false hidx) he, fun he hlo hhi hcal => ?_,
    fun cal he hlo hhi hcal => ?_⟩ <;> obtain ⟨c, hc, hat⟩ := exists_tCoef ⟨hlo, hhi⟩
  · exact exec_readBack_noCal he hcal (.inl ⟨rfl, hc⟩)
  · exact hat.exec_readBack he hcal (.inl ⟨rfl, hc⟩)

/-- Settles O45: the index is checked first, then the table; then `COEF` takes the coefficient the index names. -/
theorem rdpcReadsThePressureCoefficient : Obligations.RdpcReadsThePressureCoefficient := by
  intro idx s
  refine ⟨congrArg ([·]) (cmdByte_eq_append idx 7#3), fun he => exec_of_err he _,
    fun _ _ hill he => performRequest_of_cmdIllegal hill he,
    fun he hidx => exec_of_not_wellFormed (decide_eq_false hidx) he, fun he hlo hhi hcal => ?_,
    fun cal he hlo hhi hcal => ?_⟩ <;> obtain ⟨c, hc, hat⟩ := exists_pCoef ⟨hlo, hhi⟩
  · exact exec_readBack_noCal he hcal (.inr ⟨rfl, hc⟩)
  · exact hat.exec_readBack he hcal (.inr ⟨rfl, hc⟩)

/-! ## Frames -/

/-- R97: an operation leaves `ERR` and `ECAUSE` as they are, or has entered a fault. -/
theorem exec_keeps_err_or_raises {i : Instr} {s t : State} (h : exec i s = .next t) :
    (t.err = s.err ∧ t.ecause = s.ecause) ∨ ∃ f, t = raise f s := by
  rcases exec_cases h with ⟨-, rfl⟩ | ⟨-, f, rfl⟩ | ⟨-, buf, -, -, rfl⟩ | ⟨-, m, -, rfl⟩ |
    ⟨-, -, cal, raw, -, -, rfl⟩ | ⟨-, -, cal, raw, temp, -, -, -, rfl⟩ |
    ⟨-, -, cal, raw, temp, -, -, -, rfl⟩ | ⟨-, idx, c, cal, -, -, rfl⟩
  case inr.inl => exact .inr ⟨f, rfl⟩
  all_goals exact .inl ⟨rfl, rfl⟩

/-- R69: `LDRAW` raises nothing. -/
theorem exec_ldraw_keeps_err {m : MeasBuf} {s t : State} (h : exec (.ldraw m) s = .next t) :
    t.err = s.err ∧ t.ecause = s.ecause := by
  rw [exec_ldraw] at h
  split at h <;> cases h <;> exact ⟨rfl, rfl⟩

/-- Settles O49: what neither operation is named to write stays, and a fault writes `ERR` and `ECAUSE` alone. -/
theorem loadsLeaveTheRestUnchanged : Obligations.LoadsLeaveTheRestUnchanged := by
  refine ⟨fun buf s t h => ?_, fun m s t h => ?_⟩
  · obtain ⟨-, hraw, htemp, hpPa, hpQ8, hcoef, hovf, -, -, hport⟩ := exec_writes h
    refine ⟨by simpa using hraw, by simpa using htemp, by simpa using hpPa, by simpa using hpQ8,
      by simpa using hcoef, by simpa using hovf, hport, (exec_keeps_err_or_raises h).imp_right ?_⟩
    rintro ⟨f, rfl⟩
    exact ⟨raise_err s f, raise_cal s f⟩
  · obtain ⟨hcal, -, -, -, -, hcoef, hovf, -, -, hport⟩ := exec_writes h
    obtain ⟨herr, hcause⟩ := exec_ldraw_keeps_err h
    exact ⟨by simpa using hcal, by simpa using hcoef, by simpa using hovf, herr, hcause, hport⟩

/-- Settles O51: what a read back is not named to write stays, and a fault writes `ERR` and `ECAUSE` alone. -/
theorem readBacksLeaveTheRestUnchanged : Obligations.ReadBacksLeaveTheRestUnchanged := by
  intro idx i s t hi h
  obtain ⟨hcal, hraw, htemp, hpPa, hpQ8, -, hovf, -, -, hport⟩ := exec_writes h
  have hfault : (t.err = s.err ∧ t.ecause = s.ecause) ∨ (t.err = true ∧ t.coef = s.coef) := by
    refine (exec_keeps_err_or_raises h).imp_right ?_
    rintro ⟨f, rfl⟩
    exact ⟨raise_err s f, raise_coef s f⟩
  obtain rfl | rfl := hi <;>
    exact ⟨by simpa using hcal, by simpa using hraw, by simpa using htemp, by simpa using hpPa,
      by simpa using hpQ8, by simpa using hovf, hport, hfault⟩

end Sys2Proof.Proofs

/-! PROOFS. The raw decode family: the two values a measurement block holds, what `LDRAW` does, and what the requests for
one sample leave in the registers. -/

namespace Sys2Proof.Proofs

open Sys2Proof.Machine Sys2Proof.Claims

/-! ## The two values of a measurement block -/

/-- R68: a raw value is the top 20 of the 24 bits of its bytes: bits 0..3 are the high nibble of the last byte, bits 4..11
the middle byte, the others the first. -/
theorem rawValue_eq_extract (msb lsb xlsb : Byte) :
    rawValue msb lsb xlsb = (msb ++ lsb ++ xlsb).extractLsb' 4 20 := by
  apply BitVec.eq_of_getLsbD_eq
  intro i hi
  simp only [rawValue, BitVec.getLsbD_or, BitVec.getLsbD_shiftLeft, BitVec.getLsbD_setWidth,
    BitVec.getLsbD_ushiftRight, BitVec.getLsbD_extractLsb', BitVec.getLsbD_append]
  obtain hlast | hmiddle | hfirst : i < 4 ∨ (4 ≤ i ∧ i < 12) ∨ 12 ≤ i := by omega
  all_goals grind

/-- R68: the number of a raw value. -/
theorem rawValue_toNat (msb lsb xlsb : Byte) :
    (rawValue msb lsb xlsb).toNat = msb.toNat * 2 ^ 12 + lsb.toNat * 2 ^ 4 + xlsb.toNat / 2 ^ 4 := by
  have hm := msb.isLt
  have hl := lsb.isLt
  have hx := xlsb.isLt
  rw [rawValue_eq_extract, BitVec.extractLsb'_toNat, BitVec.toNat_append, BitVec.toNat_append,
    ← Nat.shiftLeft_add_eq_or_of_lt hl, ← Nat.shiftLeft_add_eq_or_of_lt hx]
  simp only [Nat.shiftLeft_eq, Nat.shiftRight_eq_div_pow]
  omega

/-- R68: the low four bits of the last byte have no effect. -/
theorem rawValue_congr_high {xlsb xlsb' : Byte} (h : xlsb' >>> 4 = xlsb >>> 4) (msb lsb : Byte) :
    rawValue msb lsb xlsb' = rawValue msb lsb xlsb := by
  have hhigh : xlsb'.toNat / 2 ^ 4 = xlsb.toNat / 2 ^ 4 := by
    simpa [Nat.shiftRight_eq_div_pow] using congrArg BitVec.toNat h
  apply BitVec.eq_of_toNat_eq
  rw [rawValue_toNat, rawValue_toNat, hhigh]

/-- R68: every value is that of the bytes it is cut into, here with a low nibble of 0. -/
theorem rawValue_of_bytes (v : U20) :
    rawValue (v.extractLsb' 12 8) (v.extractLsb' 4 8) (v.extractLsb' 0 4 ++ 0#4) = v := by
  have hv := v.isLt
  apply BitVec.eq_of_toNat_eq
  rw [rawValue_toNat, BitVec.toNat_append, ← Nat.shiftLeft_add_eq_or_of_lt (0#4).isLt]
  simp only [BitVec.extractLsb'_toNat, BitVec.toNat_ofNat, Nat.shiftLeft_eq, Nat.shiftRight_eq_div_pow]
  omega

/-- Settles O28: both values are raw values of three bytes of their own, so each clause is one about `rawValue`. -/
theorem rawDecodeTakesTheTopTwentyBits : Obligations.RawDecodeTakesTheTopTwentyBits := by
  refine ⟨fun m => ⟨rawValue_eq_extract .., rawValue_eq_extract .., rawValue_toNat .., rawValue_toNat ..⟩,
    fun m m' h0 h1 h2 h3 h4 h5 => ?_, fun p t => ?_⟩
  · simp only [fRaw, h0, h1, h3, h4, rawValue_congr_high h2, rawValue_congr_high h5]
  · exact ⟨#v[p.extractLsb' 12 8, p.extractLsb' 4 8, p.extractLsb' 0 4 ++ 0#4,
      t.extractLsb' 12 8, t.extractLsb' 4 8, t.extractLsb' 0 4 ++ 0#4],
      congrArg₂ RawPair.mk (rawValue_of_bytes p) (rawValue_of_bytes t)⟩

/-! ## `LDRAW` -/

/-- R69: `LDRAW` has no check but that `ERR` is clear. -/
theorem exec_ldraw_completes {s : State} (he : s.err = false) (m : MeasBuf) :
    exec (.ldraw m) s = .next (loadRaw (fRaw m) s) := by
  simp [exec_ldraw, he]

/-- Settles O43: unless it is ignored, `LDRAW` loads the decoded pair, which drops the results. -/
theorem ldrawLoadsTheSampleAndDropsOldResults : Obligations.LdrawLoadsTheSampleAndDropsOldResults := fun m _ =>
  ⟨rfl, fun he => exec_of_err he _, fun _ _ hill he => performRequest_of_cmdIllegal hill he,
    fun he => exec_ldraw_completes he m⟩

/-! ## The requests for one sample -/

/-- R36: the first request is performed, then the others in the state it leaves. -/
theorem execAll_cons_of_next {i : Instr} {s t : State} (h : exec i s = .next t) (is : List Instr) :
    execAll (i :: is) s = execAll is t := by
  rw [execAll, h]

/-- R98: while `ERR` = 1 requests change nothing, however many there are. -/
theorem execAll_of_err {s : State} (he : s.err = true) (is : List Instr) : execAll is s = .next s := by
  induction is with
  | nil => rfl
  | cons i is ih => rw [execAll_cons_of_next (exec_of_err he i), ih]

/-- R98: requests that end with `ERR` = 0 began with `ERR` = 0. -/
theorem err_of_execAll {is : List Instr} {s t : State} (h : execAll is s = .next t) (ht : t.err = false) :
    s.err = false := by
  by_contra hs
  have he : s.err = true := by simpa using hs
  obtain rfl : s = t := by simpa [execAll_of_err he] using h
  exact hs ht

/-- R73, R93: with no table loaded `TCOMP` raises `NoCal`. -/
theorem exec_tcomp_noCal {s : State} (he : s.err = false) (hcal : s.cal = none) :
    exec .tcomp s = .next (raise .noCal s) := by
  simp [exec_tcomp, he, hcal]

/-- R28(e): the sample and result registers hold the decoded pair and the values of the pure functions at it and the
table. -/
structure HoldsResultsOf (cal : Cal) (pair : RawPair) (t : State) : Prop where
  raw : t.raw = some pair
  temp : t.temp = some (temperature pair.rawT cal).value
  pPa : t.pPa = some (fP32 Config.p32Threshold pair.rawP (temperature pair.rawT cal).value.tFine cal).value
  pQ8 : t.pQ8 = some (fP64 pair.rawP (temperature pair.rawT cal).value.tFine cal).value

section Sample
variable {m : MeasBuf} {s t : State} {cal : Cal}

/-- R107: with a table loaded the requests for a sample complete; each finds the operands the ones before it wrote. -/
theorem execAll_sample_completes (he : s.err = false) (hcal : s.cal = some cal) :
    ∃ t, execAll [.ldraw m, .tcomp, .pcomp32, .pcomp64] s = .next t ∧ t.err = false ∧
      HoldsResultsOf cal (fRaw m) t := by
  rw [execAll_cons_of_next (exec_ldraw_completes he m),
    execAll_cons_of_next (exec_tcomp_completes (s := loadRaw _ s) he hcal rfl),
    execAll_cons_of_next (exec_pcomp32_completes (s := writeTemp _ _ (loadRaw _ s)) he hcal rfl rfl),
    execAll_cons_of_next (exec_pcomp64_completes (s := writePPa _ _ (writeTemp _ _ (loadRaw _ s))) he hcal rfl rfl)]
  exact ⟨_, rfl, he, rfl, rfl, rfl, rfl⟩

/-- R93, R98: requests for a sample that end with `ERR` = 0 found a table, or `TCOMP` had raised `NoCal`. -/
theorem exists_cal_of_execAll_sample (h : execAll [.ldraw m, .tcomp, .pcomp32, .pcomp64] s = .next t)
    (ht : t.err = false) : ∃ cal, s.cal = some cal := by
  refine Option.ne_none_iff_exists'.1 fun hcal => ?_
  have he := err_of_execAll h ht
  rw [execAll_cons_of_next (exec_ldraw_completes he m),
    execAll_cons_of_next (exec_tcomp_noCal (s := loadRaw _ s) he hcal)] at h
  simpa using err_of_execAll h ht

/-- R28(e), R69: what the requests for a sample leave is a function of the table and that sample. -/
theorem holdsResultsOf_of_execAll_sample (h : execAll [.ldraw m, .tcomp, .pcomp32, .pcomp64] s = .next t)
    (ht : t.err = false) (hcal : s.cal = some cal) : HoldsResultsOf cal (fRaw m) t := by
  obtain ⟨u, hu, -, hresults⟩ := execAll_sample_completes (m := m) (err_of_execAll h ht) hcal
  obtain rfl : u = t := by simpa [hu] using h
  exact hresults

end Sample

/-- Settles O55: both runs end with the results of the one table and the one sample. -/
theorem earlierSamplesDoNotInfluenceResults : Obligations.EarlierSamplesDoNotInfluenceResults := by
  intro m s₁ s₂ t₁ t₂ hsame h₁ ht₁ h₂ ht₂
  obtain ⟨cal, hcal⟩ := exists_cal_of_execAll_sample h₁ ht₁
  obtain ⟨hraw₁, htemp₁, hpPa₁, hpQ8₁⟩ := holdsResultsOf_of_execAll_sample h₁ ht₁ hcal
  obtain ⟨hraw₂, htemp₂, hpPa₂, hpQ8₂⟩ := holdsResultsOf_of_execAll_sample h₂ ht₂ (hsame ▸ hcal)
  exact ⟨hraw₁.trans hraw₂.symm, htemp₁.trans htemp₂.symm, hpPa₁.trans hpPa₂.symm, hpQ8₁.trans hpQ8₂.symm⟩

end Sys2Proof.Proofs

/-! PROOFS. The temperature family: the three products of `F_TFINE` that can overflow, the ranges of both results, what
`TCOMP` does, and what the three formula operations leave unchanged. -/

namespace Sys2Proof.Proofs

open Sys2Proof.Machine Sys2Proof.Claims

/-! ## Evaluations without `ovf` -/

/-- R59: an evaluation of no primitive hands its value on. Not proved by `rfl`: `simp` would then leave the kernel to
evaluate a whole chain at once. -/
@[simp] theorem noPrimitive_next {α β : Type} (a : α) (f : α → Calc β) : (noPrimitive a).next f = f a := by
  rw [Calc.next, noPrimitive, Bool.false_or]

/-- R49: an exact result that fits narrows to its pattern, without `ovf`. -/
theorem narrowS_of_fits {n : Nat} {e : Int} (h : -2 ^ (n - 1) ≤ e ∧ e < 2 ^ (n - 1)) :
    narrowS n e = noPrimitive (BitVec.ofInt n e) := by
  rw [noPrimitive, ← narrowS_ovf_eq_false.2 h]
  rfl

/-- R49: the number of the pattern of an exact result that fits an `s32`. -/
theorem toInt_ofInt_s32 {e : Int} (h : -2 ^ (32 - 1) ≤ e ∧ e < 2 ^ (32 - 1)) : (BitVec.ofInt 32 e).toInt = e :=
  toInt_ofInt_of_fitsS (by decide) ((fitsS_iff 32 e).2 h)

/-! ## `F_TFINE` -/

/-- R71: the exact `x`. -/
def fineX (rawT : U20) (cal : Cal) : Int := (rawT.toNat : Int) / 2 ^ 3 - coefNumber cal 0 * 2

/-- R71: the exact `d`. -/
def fineD (rawT : U20) (cal : Cal) : Int := (rawT.toNat : Int) / 2 ^ 4 - coefNumber cal 0

/-- R71: `m`, the product of `x` and T2. -/
def fineM (rawT : U20) (cal : Cal) : Calc S32 := narrowS 32 (fineX rawT cal * coefNumber cal 1)

/-- R71: `dd`, the square of `d`. -/
def fineDD (rawT : U20) (cal : Cal) : Calc S32 := narrowS 32 (fineD rawT cal ^ 2)

/-- R71: `g`, the product of T3 and `e`, the square shifted. -/
def fineG (cal : Cal) (dd : S32) : Calc S32 := narrowS 32 (dd.toInt / 2 ^ 12 * coefNumber cal 2)

/-- R13: the range of T1. -/
theorem coefNumber_zero_range (cal : Cal) : 0 ≤ coefNumber cal 0 ∧ coefNumber cal 0 < 2 ^ 16 := by
  have hlt := (cal.get 0).isLt
  rw [coefNumber, if_pos (.inl rfl)]
  omega

/-- R71: a raw value is used as a non-negative `s32`. -/
theorem toInt_setWidth_u20 (v : U20) : (v.setWidth 32 : S32).toInt = v.toNat := by
  have hlt := v.isLt
  rw [BitVec.toInt_setWidth]
  exact Int.bmod_eq_of_le (by omega) (by omega)

/-- R75(e): the sum of `var1` and `var2`, shifts of patterns whatever those are. -/
theorem shifted_sum_range (m g : S32) :
    -1179648 ≤ m.toInt / 2 ^ 11 + g.toInt / 2 ^ 14 ∧ m.toInt / 2 ^ 11 + g.toInt / 2 ^ 14 ≤ 1179646 := by
  have hm := toInt_s32_range m
  have hg := toInt_s32_range g
  omega

/-- R75(e): the sum of `var1` and `var2` fits. -/
theorem shifted_sum_fits (m g : S32) :
    -2 ^ (32 - 1) ≤ m.toInt / 2 ^ 11 + g.toInt / 2 ^ 14 ∧ m.toInt / 2 ^ 11 + g.toInt / 2 ^ 14 < 2 ^ (32 - 1) := by
  have hrange := shifted_sum_range m g
  omega

/-- R71, R75(a), (e): the primitives of `F_TFINE` other than `m`, `dd` and `g` are exact. -/
theorem fTfine_eq (rawT : U20) (cal : Cal) :
    fTfine rawT cal =
      (fineM rawT cal).next fun m => (fineDD rawT cal).next fun dd => (fineG cal dd).next fun g =>
        noPrimitive (BitVec.ofInt 32 (m.toInt / 2 ^ 11 + g.toInt / 2 ^ 14)) := by
  have hraw := rawT.isLt
  obtain ⟨hlo, hhi⟩ := coefNumber_zero_range cal
  have hb : -2 ^ (32 - 1) ≤ coefNumber cal 0 * 2 ∧ coefNumber cal 0 * 2 < 2 ^ (32 - 1) := by omega
  have hx : -2 ^ (32 - 1) ≤ fineX rawT cal ∧ fineX rawT cal < 2 ^ (32 - 1) := by rw [fineX]; omega
  have hd : -2 ^ (32 - 1) ≤ fineD rawT cal ∧ fineD rawT cal < 2 ^ (32 - 1) := by rw [fineD]; omega
  simp only [fTfine, shl32, sub32, mul32, add32, asr32_eq, noPrimitive_next, toInt_sshiftRight_eq_ediv, coef32_toInt,
    coefIndex, toInt_setWidth_u20, pow_one, narrowS_of_fits hb, toInt_ofInt_s32 hb]
  rw [← fineX, ← fineD]
  simp only [narrowS_of_fits hx, narrowS_of_fits hd, noPrimitive_next, toInt_ofInt_s32 hx, toInt_ofInt_s32 hd, ← sq,
    narrowS_of_fits (shifted_sum_fits _ _), fineM, fineDD, fineG]

/-- R71: the result, whether or not a product overflowed. -/
theorem fTfine_toInt (rawT : U20) (cal : Cal) :
    (fTfine rawT cal).value.toInt =
      (fineM rawT cal).value.toInt / 2 ^ 11 + (fineG cal (fineDD rawT cal).value).value.toInt / 2 ^ 14 := by
  simp only [fTfine_eq, next_value, noPrimitive_value, toInt_ofInt_s32 (shifted_sum_fits _ _)]

/-- R71: only `m`, `dd` and `g` can overflow. -/
theorem fTfine_ovf_eq_false_iff (rawT : U20) (cal : Cal) :
    (fTfine rawT cal).ovf = false ↔
      (fineM rawT cal).ovf = false ∧ (fineDD rawT cal).ovf = false ∧
        (fineG cal (fineDD rawT cal).value).ovf = false := by
  simp only [fTfine_eq, next_ovf, noPrimitive_ovf, Bool.or_false, Bool.or_eq_false_iff]

/-- R75(e): the range of `T_FINE`. -/
theorem fTfine_range (rawT : U20) (cal : Cal) :
    -1179648 ≤ (fTfine rawT cal).value.toInt ∧ (fTfine rawT cal).value.toInt ≤ 1179646 := by
  rw [fTfine_toInt]
  exact shifted_sum_range _ _

/-- Settles O30: without `ovf` each of the three products is exact. -/
theorem fineTemperatureIsExactWithoutOverflow : Obligations.FineTemperatureIsExactWithoutOverflow := by
  intro rawT cal h
  obtain ⟨hm, hdd, hg⟩ := (fTfine_ovf_eq_false_iff rawT cal).1 h
  have hmExact : (fineM rawT cal).value.toInt = fineX rawT cal * coefNumber cal 1 := narrowS_exact (by decide) hm
  have hddExact : (fineDD rawT cal).value.toInt = fineD rawT cal ^ 2 := narrowS_exact (by decide) hdd
  have hgExact : (fineG cal (fineDD rawT cal).value).value.toInt =
      (fineDD rawT cal).value.toInt / 2 ^ 12 * coefNumber cal 2 := narrowS_exact (by decide) hg
  rw [fTfine_toInt, hmExact, hgExact, hddExact, fineX, fineD, tfineExact]

/-! ## `F_TX100` -/

/-- R72: where the product with 5 fits. -/
theorem mul32_five_ovf_eq_false_iff (fine : S32) :
    (mul32 fine 5#32).ovf = false ↔ -429496729 ≤ fine.toInt ∧ fine.toInt ≤ 429496729 := by
  have hfive : (5#32 : S32).toInt = 5 := by decide
  rw [mul32, narrowS_ovf_eq_false, hfive]
  omega

/-- R72: where it does, it is exact. -/
theorem mul32_five_toInt {fine : S32} (h : (mul32 fine 5#32).ovf = false) :
    (mul32 fine 5#32).value.toInt = fine.toInt * 5 := narrowS_exact (by decide) h

/-- R72: where the sum with 128 does not fit, though the product did. -/
theorem add32_half_ovf_iff {fine : S32} (h : (mul32 fine 5#32).ovf = false) :
    (add32 (mul32 fine 5#32).value 128#32).ovf = true ↔ 429496704 ≤ fine.toInt := by
  have hhalf : (128#32 : S32).toInt = 128 := by decide
  have hrange := (mul32_five_ovf_eq_false_iff fine).1 h
  rw [← Bool.not_eq_false, add32, narrowS_ovf_eq_false, mul32_five_toInt h, hhalf]
  omega

/-- R72: the product and the sum are the primitives that can overflow. -/
theorem fTx100_ovf (fine : S32) :
    (fTx100 fine).ovf = ((mul32 fine 5#32).ovf || (add32 (mul32 fine 5#32).value 128#32).ovf) := by
  simp only [fTx100, next_ovf, asr32_eq, noPrimitive_ovf, Bool.or_false]

/-- R72: where `F_TX100` overflows. -/
theorem fTx100_ovf_iff (fine : S32) :
    (fTx100 fine).ovf = true ↔ fine.toInt < -429496729 ∨ 429496704 ≤ fine.toInt := by
  rw [fTx100_ovf]
  cases hfive : (mul32 fine 5#32).ovf with
  | false =>
    have hrange := (mul32_five_ovf_eq_false_iff fine).1 hfive
    rw [Bool.false_or, add32_half_ovf_iff hfive]
    omega
  | true =>
    have hout : ¬(-429496729 ≤ fine.toInt ∧ fine.toInt ≤ 429496729) := by
      rw [← mul32_five_ovf_eq_false_iff, hfive]
      decide
    simp only [Bool.true_or, true_iff]
    omega

/-- R72: without `ovf` the result is the floor of the exact quotient. -/
theorem fTx100_toInt {fine : S32} (h : (fTx100 fine).ovf = false) :
    (fTx100 fine).value.toInt = (fine.toInt * 5 + 128) / 2 ^ 8 := by
  rw [fTx100_ovf, Bool.or_eq_false_iff] at h
  obtain ⟨hfive, hhalf⟩ := h
  have hsum : (add32 (mul32 fine 5#32).value 128#32).value.toInt = (mul32 fine 5#32).value.toInt + 128 :=
    narrowS_exact (by decide) hhalf
  rw [← mul32_five_toInt hfive, ← hsum, ← toInt_sshiftRight_eq_ediv]
  simp only [fTx100, next_value, asr32_eq, noPrimitive_value]

/-- R75(f): nothing overflows for a `fine` of `F_TFINE`. -/
theorem fTx100_fTfine_ovf (rawT : U20) (cal : Cal) : (fTx100 (fTfine rawT cal).value).ovf = false := by
  have hrange := fTfine_range rawT cal
  rw [← Bool.not_eq_true, fTx100_ovf_iff]
  omega

/-- Settles O31: the product and the sum are exact or set `ovf`, and the shift is the floor. -/
theorem hundredthsAreRoundedHalfUp : Obligations.HundredthsAreRoundedHalfUp := by
  refine ⟨fun fine => ⟨?_, ?_, add32_half_ovf_iff, fTx100_ovf_iff fine, fun h => ?_⟩, fTx100_fTfine_ovf⟩
  · rw [fTx100, next_value, next_value]
  · rw [← Bool.not_eq_false, mul32_five_ovf_eq_false_iff]
    omega
  · rw [fTx100_toInt h]
    omega

/-- Settles O32: `T_FINE` is a sum of shifted patterns, and `T_X100` the floor of the exact quotient. -/
theorem temperatureRangesHoldForAllInputs : Obligations.TemperatureRangesHoldForAllInputs := by
  intro rawT cal
  obtain ⟨hlo, hhi⟩ := fTfine_range rawT cal
  rw [fTx100_toInt (fTx100_fTfine_ovf rawT cal)]
  omega

/-! ## Where `F_TFINE` overflows -/

/-- R75(c): the square overflows exactly when `d` is 46341 or more away from 0. -/
theorem fineDD_ovf_eq_false_iff (rawT : U20) (cal : Cal) :
    (fineDD rawT cal).ovf = false ↔ (fineD rawT cal).natAbs < 46341 := by
  have hfits : (fineD rawT cal).natAbs ≤ (46340 : Int).natAbs ↔ fineD rawT cal ^ 2 ≤ 46340 ^ 2 :=
    Int.natAbs_le_iff_sq_le
  have hout : (46341 : Int).natAbs ≤ (fineD rawT cal).natAbs ↔ 46341 ^ 2 ≤ fineD rawT cal ^ 2 :=
    Int.natAbs_le_iff_sq_le
  have hnonneg := sq_nonneg (fineD rawT cal)
  rw [fineDD, narrowS_ovf_eq_false]
  omega

/-- R75(c): a far square sets the flag of `F_TFINE`, whatever the other products do. -/
theorem fTfine_ovf_of_far {rawT : U20} {cal : Cal} (h : 46341 ≤ (fineD rawT cal).natAbs) :
    (fTfine rawT cal).ovf = true := by
  rw [← Bool.not_eq_false, fTfine_ovf_eq_false_iff, fineDD_ovf_eq_false_iff]
  rintro ⟨-, hnear, -⟩
  exact absurd h (not_le.2 hnear)

/-- R71: with T2 = 0 the product `m` is 0. -/
theorem fineM_ovf_of_zero {cal : Cal} (h : cal.get 1 = 0#16) (rawT : U20) : (fineM rawT cal).ovf = false := by
  have hzero : coefNumber cal 1 = 0 := by simp [coefNumber, h]
  rw [fineM, hzero, mul_zero, narrowS_ovf_eq_false]
  decide

/-- R71: with T3 = 0 the product `g` is 0. -/
theorem fineG_ovf_of_zero {cal : Cal} (h : cal.get 2 = 0#16) (dd : S32) : (fineG cal dd).ovf = false := by
  have hzero : coefNumber cal 2 = 0 := by simp [coefNumber, h]
  rw [fineG, hzero, mul_zero, narrowS_ovf_eq_false]
  decide

/-- R75(g): with the coefficients 27545, 25897 and 50 of the source no product overflows. -/
theorem fTfine_sourceTable_ovf (rawT : U20) : (fTfine rawT sourceTable).ovf = false := by
  have hraw := rawT.isLt
  have ht1 : coefNumber sourceTable 0 = 27545 := by decide
  have ht2 : coefNumber sourceTable 1 = 25897 := by decide
  have ht3 : coefNumber sourceTable 2 = 50 := by decide
  refine (fTfine_ovf_eq_false_iff rawT sourceTable).2 ⟨?_, ?_, ?_⟩
  · rw [fineM, narrowS_ovf_eq_false, fineX, ht1, ht2]
    omega
  · rw [fineDD_ovf_eq_false_iff, fineD, ht1]
    omega
  · have hdd := toInt_s32_range (fineDD rawT sourceTable).value
    rw [fineG, narrowS_ovf_eq_false, ht3]
    omega

/-- R73: the results of both functions, under one flag. -/
theorem temperature_eq (rawT : U20) (cal : Cal) :
    temperature rawT cal =
      ⟨⟨(fTfine rawT cal).value, (fTx100 (fTfine rawT cal).value).value⟩,
        (fTfine rawT cal).ovf || (fTx100 (fTfine rawT cal).value).ovf⟩ := by
  simp only [temperature, Calc.next, noPrimitive, Bool.or_false]

/-- Settles O33: the square's flag is the function's, and its only one when T2 = T3 = 0 make the other products 0. -/
theorem temperatureSquareOverflowsExactlyFarFromT1 : Obligations.TemperatureSquareOverflowsExactlyFarFromT1 := by
  refine ⟨fun _ _ => fTfine_ovf_of_far, fun rawT cal ht2 ht3 => ⟨fun hovf => ?_, fTfine_ovf_of_far⟩, fun rawT => ?_⟩
  · by_contra hnear
    have hdd := (fineDD_ovf_eq_false_iff rawT cal).2 (not_le.1 hnear)
    have hnone := (fTfine_ovf_eq_false_iff rawT cal).2 ⟨fineM_ovf_of_zero ht2 rawT, hdd, fineG_ovf_of_zero ht3 _⟩
    simp [hnone] at hovf
  · rw [temperature_eq, fTfine_sourceTable_ovf, fTx100_fTfine_ovf, Bool.false_or]

/-! ## `TCOMP` -/

/-- R73, R94: with a table but no sample `TCOMP` raises `NoRaw`. -/
theorem exec_tcomp_noRaw {s : State} (he : s.err = false) (hcal : s.cal.isSome) (hraw : s.raw = none) :
    exec .tcomp s = .next (raise .noRaw s) := by
  obtain ⟨cal, hcal⟩ := Option.isSome_iff_exists.1 hcal
  simp [exec_tcomp, he, hcal, hraw]

/-- Settles O46: the checks of `TCOMP` are `ERR`, the table and the sample; then it writes both results. -/
theorem tcompComputesTheTemperature : Obligations.TcompComputesTheTemperature := by
  intro s
  refine ⟨rfl, fun he => exec_of_err he _, fun _ _ hill he => performRequest_of_cmdIllegal hill he, exec_tcomp_noCal,
    exec_tcomp_noRaw, fun cal raw he hcal hraw => ?_⟩
  rw [exec_tcomp_completes he hcal hraw, temperature_eq, writeTemp]

/-! ## Frames -/

/-- R97: an operation leaves `ERR` and `ECAUSE` as they are, or has entered a fault, which keeps `OVF` and every register
that fault entry does not write. -/
theorem exec_keeps_err_or_faults {α : Type} {i : Instr} {s t : State} (register : State → α)
    (hkept : ∀ f, register (raise f s) = register s) (h : exec i s = .next t) :
    (t.err = s.err ∧ t.ecause = s.ecause) ∨ (t.err = true ∧ register t = register s ∧ t.ovf = s.ovf) := by
  refine (exec_keeps_err_or_raises h).imp_right ?_
  rintro ⟨f, rfl⟩
  exact ⟨raise_err s f, hkept f, raise_ovf s f⟩

/-- Settles O50: what none of the three is named to write stays, and a fault writes `ERR` and `ECAUSE` alone. -/
theorem formulaOperationsLeaveTheRestUnchanged : Obligations.FormulaOperationsLeaveTheRestUnchanged := by
  refine ⟨fun s t h => ?_, fun s t h => ?_, fun s t h => ?_⟩ <;>
    obtain ⟨hcal, hraw, htemp, hpPa, hpQ8, hcoef, -, -, -, hport⟩ := exec_writes h
  · exact ⟨by simpa using hcal, by simpa using hraw, by simpa using hpPa, by simpa using hpQ8, by simpa using hcoef,
      hport, exec_keeps_err_or_faults State.temp (raise_temp s) h⟩
  · exact ⟨by simpa using hcal, by simpa using hraw, by simpa using htemp, by simpa using hpQ8, by simpa using hcoef,
      hport, exec_keeps_err_or_faults State.pPa (raise_pPa s) h⟩
  · exact ⟨by simpa using hcal, by simpa using hraw, by simpa using htemp, by simpa using hpPa, by simpa using hcoef,
      hport, exec_keeps_err_or_faults State.pQ8 (raise_pQ8 s) h⟩

/-! ## The host's arithmetic -/

/-- R74: `TDEG` drops what the quotient leaves of the size of `T_X100`. -/
theorem tdeg_mul_natAbs (x : S32) : (tdeg x * 100).natAbs = x.toInt.natAbs / 100 * 100 := by
  rw [Int.natAbs_mul, tdeg]
  exact congrArg (· * 100) (Int.natAbs_tdiv _ _)

/-- R74: `TDEG` has the sign of `T_X100`, or is 0. -/
theorem tdeg_mul_nonneg (x : S32) : 0 ≤ tdeg x * x.toInt := by
  rcases le_total 0 x.toInt with hx | hx
  · exact mul_nonneg (Int.tdiv_nonneg hx (by decide)) hx
  · have hneg : 0 ≤ -tdeg x := by
      rw [tdeg, ← Int.neg_tdiv]
      exact Int.tdiv_nonneg (neg_nonneg.2 hx) (by decide)
    exact mul_nonneg_of_nonpos_of_nonpos (neg_nonneg.1 hneg) hx

/-- Settles O60: the quotient by 100 is truncated, and the byte boundary splits `P_Q8`. -/
theorem hostArithmeticRoundsAsStated : Obligations.HostArithmeticRoundsAsStated := by
  refine ⟨fun x => ⟨?_, ?_, tdeg_mul_nonneg x⟩, fun p => ⟨?_, ?_, ?_, ?_⟩⟩
  · rw [tdeg_mul_natAbs]
    exact Nat.div_mul_le_self _ 100
  · rw [tdeg_mul_natAbs]
    omega
  · rw [pQ8Whole, BitVec.toNat_ushiftRight, Nat.shiftRight_eq_div_pow]
  · rw [pQ8Fraction, BitVec.extractLsb'_toNat, Nat.shiftRight_zero]
  · exact (Nat.div_add_mod p.toNat 256).symm
  · rw [isSentinel, decide_eq_true_iff, BitVec.toNat_eq]
    rfl

end Sys2Proof.Proofs

/-! PROOFS. The 32-bit pressure family: what the chain of `F_P32` computes when nothing overflows, where its square
overflows, its denominator and its division branch, what `PCOMP32` does, and that the two variants commute. -/

namespace Sys2Proof.Proofs

open Sys2Proof.Machine Sys2Proof.Claims

/-! ## What an evaluation has computed unless it overflowed -/

/-- R60(e): unless some primitive of `c` set `ovf`, its value is as `P` says. -/
def UnlessOvf {α : Type} (c : Calc α) (P : α → Prop) : Prop := c.ovf = false → P c.value

section UnlessOvf
variable {α β : Type} {n : Nat} {e : Int} {P : α → Prop} {Q : β → Prop}

theorem unlessOvf_noPrimitive {a : α} (h : P a) : UnlessOvf (noPrimitive a) P := fun _ => h

/-- A claim that is about no value holds whatever is evaluated. -/
theorem unlessOvf_const {c : Calc α} {p : Prop} (h : p) : UnlessOvf c fun _ => p := fun _ => h

/-- R49, R59: what the first evaluation has computed is all that the second one is told of it. -/
theorem UnlessOvf.next {c : Calc α} {f : α → Calc β} (hc : UnlessOvf c P) (hf : ∀ a, P a → UnlessOvf (f a) Q) :
    UnlessOvf (c.next f) Q := by
  intro h
  obtain ⟨hfirst, hsecond⟩ := Bool.or_eq_false_iff.1 h
  exact hf c.value (hc hfirst) hsecond

/-- R49: a signed primitive has computed its exact result. -/
theorem unlessOvf_narrowS [NeZero n] (e : Int) : UnlessOvf (narrowS n e) fun v => v.toInt = e :=
  narrowS_exact (NeZero.pos n)

/-- R49: an unsigned primitive has computed its exact result. -/
theorem unlessOvf_narrowU (e : Int) : UnlessOvf (narrowU n e) fun v => (v.toNat : Int) = e := narrowU_exact

/-- R49, R59: a signed primitive, then the rest of the chain, which is told its exact result. -/
theorem signed_next [NeZero n] {f : BitVec n → Calc β} (h : ∀ v, v.toInt = e → UnlessOvf (f v) Q) :
    UnlessOvf ((narrowS n e).next f) Q := (unlessOvf_narrowS e).next h

/-- R49, R59: an unsigned primitive, then the rest of the chain, which is told its exact result. -/
theorem unsigned_next {f : BitVec n → Calc β} (h : ∀ v, (v.toNat : Int) = e → UnlessOvf (f v) Q) :
    UnlessOvf ((narrowU n e).next f) Q := (unlessOvf_narrowU e).next h

end UnlessOvf

/-! ## `F_P32` without `ovf` -/

/-- R78: the exact `v1a`. -/
def p32V1a (fine : Int) : Int := fine / 2 - 64000

/-- R78: the exact `q`. -/
def p32Q (fine : Int) : Int := p32V1a fine / 4

/-- R78: the exact `qq`. -/
def p32QQ (fine : Int) : Int := p32Q fine ^ 2

/-- R78: the exact `v2c`. -/
def p32V2c (fine : Int) (cal : Cal) : Int :=
  (p32QQ fine / 2 ^ 11 * pNumber cal 6 + p32V1a fine * pNumber cal 5 * 2) / 4 + pNumber cal 4 * 2 ^ 16

/-- R78: the exact denominator `v1c`. -/
def p32V1c (fine : Int) (cal : Cal) : Int :=
  (32768 + (pNumber cal 3 * (p32QQ fine / 2 ^ 13) / 2 ^ 3 + pNumber cal 2 * p32V1a fine / 2) / 2 ^ 18)
    * pNumber cal 1 / 2 ^ 15

/-- R78: the exact `p1`. -/
def p32P1 (rawP v2c : Int) : Int := (1048576 - rawP - v2c / 2 ^ 12) * 3125

/-- R80: the exact `p2`. -/
def p32P2 (thr p1 dv : Int) : Int := if p1 < thr then p1 * 2 / dv else p1 / dv * 2

/-- R78: the exact result from `p2` on. -/
def p32Final (p2 : Int) (cal : Cal) : Int :=
  p2 + (pNumber cal 9 * ((p2 / 2 ^ 3) ^ 2 / 2 ^ 13) / 2 ^ 12 + p2 / 2 ^ 2 * pNumber cal 8 / 2 ^ 13
    + pNumber cal 7) / 2 ^ 4

/-- R78, R79: the exact formula, cut where the model cuts it. -/
theorem p32Exact_eq (thr rawP fine : Int) (cal : Cal) :
    p32Exact thr rawP fine cal =
      if p32V1c fine cal = 0 then 0
      else p32Final (p32P2 thr (p32P1 rawP (p32V2c fine cal)) (p32V1c fine cal)) cal := rfl

/-- R63: the numbers of the coefficients of `F_P32`. -/
theorem coef32_pNumber (cal : Cal) :
    (coef32 cal .p1).toInt = pNumber cal 1 ∧ (coef32 cal .p2).toInt = pNumber cal 2 ∧
    (coef32 cal .p3).toInt = pNumber cal 3 ∧ (coef32 cal .p4).toInt = pNumber cal 4 ∧
    (coef32 cal .p5).toInt = pNumber cal 5 ∧ (coef32 cal .p6).toInt = pNumber cal 6 ∧
    (coef32 cal .p7).toInt = pNumber cal 7 ∧ (coef32 cal .p8).toInt = pNumber cal 8 ∧
    (coef32 cal .p9).toInt = pNumber cal 9 :=
  ⟨coef32_toInt .., coef32_toInt .., coef32_toInt .., coef32_toInt .., coef32_toInt .., coef32_toInt ..,
    coef32_toInt .., coef32_toInt .., coef32_toInt ..⟩

/-- R78: the chain up to the denominator, one primitive after the other. -/
theorem p32Denominator_exact (fine : S32) (cal : Cal) :
    UnlessOvf (p32Denominator fine cal) fun v =>
      v.1.toInt = p32V2c fine.toInt cal ∧ v.2.toInt = p32V1c fine.toInt cal := by
  refine signed_next fun fineHalf hfineHalf => signed_next fun v1a hv1a => signed_next fun q hq =>
    signed_next fun qq hqq => signed_next fun qq11 hqq11 => signed_next fun v2a hv2a => signed_next fun t5a ht5a =>
    signed_next fun t5 ht5 => signed_next fun v2b hv2b => signed_next fun v2b2 hv2b2 => signed_next fun p4 hp4 =>
    signed_next fun v2c hv2c => signed_next fun qq13 hqq13 => signed_next fun h hh => signed_next fun i hi =>
    signed_next fun h3 hh3 => signed_next fun i1 hi1 => signed_next fun j hj => signed_next fun v1b hv1b =>
    signed_next fun w hw => signed_next fun k hk => signed_next fun v1c hv1c => unlessOvf_noPrimitive ?_
  obtain ⟨hP1, hP2, hP3, hP4, hP5, hP6, -⟩ := coef32_pNumber cal
  have hhalf : v1a.toInt = p32V1a fine.toInt := by simp [hv1a, hfineHalf, p32V1a]
  have hsquare : qq.toInt = p32QQ fine.toInt := by simp [hqq, hq, hhalf, p32QQ, p32Q, sq]
  constructor
  · simp [hv2c, hp4, hv2b2, hv2b, ht5, ht5a, hv2a, hqq11, hsquare, hhalf, hP4, hP5, hP6, p32V2c]
  · simp [hv1c, hk, hw, hv1b, hj, hi1, hh3, hi, hh, hqq13, hsquare, hhalf, hP1, hP2, hP3, p32V1c]

/-- R80: both sides of the threshold, for a nonzero divisor. -/
theorem p32Quotient_exact (thr p1 : U32) {dv : U32} (hdv : dv ≠ 0#32) :
    UnlessOvf (p32Quotient thr p1 dv) fun p2 => (p2.toNat : Int) = p32P2 thr.toNat p1.toNat dv.toNat := by
  have hlt : p1 < thr ↔ (p1.toNat : Int) < thr.toNat := by rw [BitVec.lt_def, Nat.cast_lt]
  simp only [p32Quotient, p32P2, divu32_of_ne hdv, hlt]
  split
  · refine unsigned_next fun twice htwice => ?_
    rw [pow_one] at htwice
    rw [← htwice]
    exact unlessOvf_narrowU _
  · refine unsigned_next fun quot hquot => ?_
    rw [← hquot]
    exact unlessOvf_narrowU _

/-- R78: the chain from `p0` on, one primitive after the other. -/
theorem p32Result_exact (thr : U32) (rawP : U20) (v2c : S32) {v1c : S32} (hv1c : v1c ≠ 0#32) (cal : Cal) :
    UnlessOvf (p32Result thr rawP v2c v1c cal) fun p =>
      (p.toNat : Int) = p32Final (p32P2 thr.toNat (p32P1 rawP.toNat v2c.toInt) v1c.toInt) cal := by
  refine signed_next fun base hbase => signed_next fun v2c12 hv2c12 => signed_next fun diff hdiff =>
    unsigned_next fun p0 hp0 => unsigned_next fun p1 hp1 => unsigned_next fun dv hdv => ?_
  have hne : dv ≠ 0#32 := by
    rintro rfl
    exact hv1c (BitVec.eq_of_toInt_eq hdv.symm)
  refine (p32Quotient_exact thr p1 hne).next fun p2 hp2 => ?_
  refine unsigned_next fun t ht => unsigned_next fun tt htt => unsigned_next fun tt13 htt13 =>
    signed_next fun tt13s htt13s => signed_next fun p9tt hp9tt => signed_next fun v1d hv1d =>
    unsigned_next fun p2q hp2q => signed_next fun p2qs hp2qs => signed_next fun p2p8 hp2p8 =>
    signed_next fun v2d hv2d => signed_next fun vd hvd => signed_next fun s hs => signed_next fun p2s hp2s =>
    signed_next fun s4 hs4 => signed_next fun res hres => ?_
  obtain ⟨-, -, -, -, -, -, hP7, hP8, hP9⟩ := coef32_pNumber cal
  have hfirst : (p1.toNat : Int) = p32P1 rawP.toNat v2c.toInt := by
    rw [toInt_setWidth_u20] at hbase
    simp [hp1, hp0, hdiff, hbase, hv2c12, p32P1]
  have hlast : res.toInt = p32Final p2.toNat cal := by
    simp [hres, hs4, hp2s, hs, hvd, hv2d, hp2p8, hp2qs, hp2q, hv1d, hp9tt, htt13s, htt13, htt, ht, hP7, hP8, hP9,
      p32Final, sq]
  rw [← hfirst, ← hdv, ← hp2, ← hlast]
  exact unlessOvf_narrowU _

/-- Settles O34: each primitive hands its exact result on, and a zero denominator is a zero number. -/
theorem pressureThirtyTwoIsExactWithoutOverflow : Obligations.PressureThirtyTwoIsExactWithoutOverflow := by
  intro thr rawP fine cal
  change UnlessOvf (fP32 thr rawP fine cal) fun p => (p.toNat : Int) = p32Exact thr.toNat rawP.toNat fine.toInt cal
  refine (p32Denominator_exact fine cal).next ?_
  rintro ⟨v2c, v1c⟩ ⟨hv2c, hv1c⟩
  have hzero : v1c = 0#32 ↔ p32V1c fine.toInt cal = 0 := by
    rw [← hv1c, ← BitVec.toInt_inj]
    rfl
  rw [p32Exact_eq, ← if_congr hzero rfl rfl, ← hv2c, ← hv1c]
  by_cases h : v1c = 0#32
  · simp only [if_pos h]
    exact unlessOvf_noPrimitive rfl
  · simp only [if_neg h]
    exact p32Result_exact thr rawP v2c h cal

/-! ## Primitives with an operand of 0 -/

/-- R49: 0 narrows to the pattern 0. -/
theorem narrowS_zero (n : Nat) : narrowS n 0 = noPrimitive 0#n := by
  rw [← BitVec.toInt_zero (w := n), narrowS_toInt]

/-- R50: a product with 0 is 0. -/
theorem mul32_zero (a : S32) : mul32 a 0#32 = noPrimitive 0#32 := by
  rw [mul32, BitVec.toInt_zero, mul_zero, narrowS_zero]

/-- R50: a product with 0 is 0. -/
theorem zero_mul32 (a : S32) : mul32 0#32 a = noPrimitive 0#32 := by
  rw [mul32, BitVec.toInt_zero, zero_mul, narrowS_zero]

/-- R50: adding 0 changes nothing. -/
theorem add32_zero (a : S32) : add32 a 0#32 = noPrimitive a := by
  rw [add32, BitVec.toInt_zero, add_zero, narrowS_toInt]

/-- R51: 0 shifted left is 0. -/
theorem shl32_zero (k : Nat) : shl32 0#32 k = noPrimitive 0#32 := by
  rw [shl32, BitVec.toInt_zero, zero_mul, narrowS_zero]

/-- R55: a product with 0 is 0. -/
theorem mul64_zero (a : S64) : mul64 a 0#64 = noPrimitive 0#64 := by
  rw [mul64, BitVec.toInt_zero, mul_zero, narrowS_zero]

/-! ## Where the square overflows -/

/-- R82(b): the square fits exactly where `fine` is in the range. -/
theorem p32QQ_fits_iff (fine : Int) :
    -2 ^ (32 - 1) ≤ p32QQ fine ∧ p32QQ fine < 2 ^ (32 - 1) ↔ -242720 ≤ fine ∧ fine ≤ 498727 := by
  have hnear : (p32Q fine).natAbs ≤ (46340 : Int).natAbs ↔ p32QQ fine ≤ 46340 ^ 2 := Int.natAbs_le_iff_sq_le
  have hfar : (46341 : Int).natAbs ≤ (p32Q fine).natAbs ↔ 46341 ^ 2 ≤ p32QQ fine := Int.natAbs_le_iff_sq_le
  have hnonneg : 0 ≤ p32QQ fine := sq_nonneg _
  have hq : p32Q fine = (fine / 2 - 64000) / 4 := rfl
  omega

/-- R82(b): without `ovf` the square is exact, and it is an `s32`, so it fits. -/
theorem p32Denominator_near_unlessOvf (fine : S32) (cal : Cal) :
    UnlessOvf (p32Denominator fine cal) fun _ => -242720 ≤ fine.toInt ∧ fine.toInt ≤ 498727 := by
  refine signed_next fun fineHalf hfineHalf => signed_next fun v1a hv1a => signed_next fun q hq =>
    signed_next fun qq hqq => unlessOvf_const ?_
  have hsquare : qq.toInt = p32QQ fine.toInt := by simp [hqq, hq, hv1a, hfineHalf, p32QQ, p32Q, p32V1a, sq]
  rw [← p32QQ_fits_iff, ← hsquare]
  exact ⟨qq.le_toInt, qq.toInt_lt⟩

/-- R82(b): outside the range every table shows an overflow. -/
theorem p32Denominator_ovf_of_far {fine : S32} {cal : Cal} (h : fine.toInt < -242720 ∨ 498727 < fine.toInt) :
    (p32Denominator fine cal).ovf = true := by
  by_contra hovf
  have hnear := p32Denominator_near_unlessOvf fine cal (by simpa using hovf)
  omega

/-- R63: the coefficients of the all-zero table. -/
theorem coef32_replicate_zero (c : Coef) : coef32 (Vector.replicate 12 0#16) c = 0#32 := by cases c <;> decide

/-- R78: the exact `v1a` fits, for every `fine`. -/
theorem p32V1a_fits (fine : S32) : -2 ^ (32 - 1) ≤ p32V1a fine.toInt ∧ p32V1a fine.toInt < 2 ^ (32 - 1) := by
  have hrange := toInt_s32_range fine
  rw [p32V1a]
  omega

/-- R78: so `v1a` is computed without `ovf`. -/
theorem sub32_fineHalf (fine : S32) :
    sub32 (fine.sshiftRight 1) 64000#32 = noPrimitive (BitVec.ofInt 32 (p32V1a fine.toInt)) := by
  rw [sub32, toInt_sshiftRight_eq_ediv]
  exact narrowS_of_fits (p32V1a_fits fine)

/-- R78: where the exact `qq` fits, it is computed without `ovf`. -/
theorem mul32_q_q {fine : S32} (h : -2 ^ (32 - 1) ≤ p32QQ fine.toInt ∧ p32QQ fine.toInt < 2 ^ (32 - 1)) :
    mul32 ((BitVec.ofInt 32 (p32V1a fine.toInt)).sshiftRight 2)
      ((BitVec.ofInt 32 (p32V1a fine.toInt)).sshiftRight 2) = noPrimitive (BitVec.ofInt 32 (p32QQ fine.toInt)) := by
  rw [mul32, toInt_sshiftRight_eq_ediv, toInt_ofInt_s32 (p32V1a_fits fine), ← sq]
  exact narrowS_of_fits h

/-- R82(b): with the all-zero table only the square can overflow. -/
theorem p32Denominator_of_zero_table {fine : S32} (h : -242720 ≤ fine.toInt ∧ fine.toInt ≤ 498727) :
    p32Denominator fine (Vector.replicate 12 0#16) = noPrimitive (0#32, 0#32) := by
  have hsquare := mul32_q_q ((p32QQ_fits_iff fine.toInt).2 h)
  simp only [p32Denominator, asr32_eq, noPrimitive_next, sub32_fineHalf, hsquare, coef32_replicate_zero, mul32_zero,
    zero_mul32, add32_zero, shl32_zero, BitVec.zero_sshiftRight]

/-- Settles O38: the square's flag is the function's, and with the all-zero table it is the only one. -/
theorem pressureSquareOverflowsOutsideItsRange : Obligations.PressureSquareOverflowsOutsideItsRange := by
  intro fine
  refine ⟨fun _ => p32Denominator_ovf_of_far, fun hovf => ?_, p32Denominator_ovf_of_far⟩
  by_contra hnear
  rw [p32Denominator_of_zero_table (by omega)] at hovf
  cases hovf

/-! ## The denominator -/

/-- R78: the denominator is the product of `w` and P1, narrowed and shifted, where `w` is the sum of 32768 and the shift
of some pattern `j`. -/
theorem exists_j_denominator (fine : S32) (cal : Cal) :
    ∃ j : S32, (p32Denominator fine cal).value.2 =
      (mul32 (add32 32768#32 (j.sshiftRight 18)).value (coef32 cal .p1)).value.sshiftRight 15 := by
  simp only [p32Denominator, next_value, asr32_eq, noPrimitive_value]
  exact ⟨_, rfl⟩

/-- R78: `w` stays close to 32768. -/
theorem p32W_range (j : S32) :
    24576 ≤ (add32 32768#32 (j.sshiftRight 18)).value.toInt ∧
      (add32 32768#32 (j.sshiftRight 18)).value.toInt ≤ 40959 := by
  have hj := toInt_s32_range j
  have hexact : (32768#32 : S32).toInt + (j.sshiftRight 18).toInt = 32768 + j.toInt / 2 ^ 18 := by
    rw [toInt_sshiftRight_eq_ediv]
    rfl
  rw [add32, hexact, narrowS_value, toInt_ofInt_s32 (by omega)]
  omega

/-- R13: P1 is read unsigned. -/
theorem coef32_p1_toInt (cal : Cal) : (coef32 cal .p1).toInt = (cal.get 3).toNat := coef32_toInt_unsigned cal rfl

/-- R78, R82(c): a product that reaches 2^15 but not 2^32 is not 0 after it is narrowed and shifted. -/
theorem shifted_product_ne_zero {e : Int} (hlo : 2 ^ 15 ≤ e) (hhi : e < 2 ^ 32) :
    (BitVec.ofInt 32 e).sshiftRight 15 ≠ 0#32 := by
  intro hzero
  have hshift := congrArg BitVec.toInt hzero
  rw [toInt_sshiftRight_eq_ediv, BitVec.toInt_ofInt, BitVec.toInt_zero, Int.bmod_def] at hshift
  split at hshift <;> omega

/-- R78, R82(c): `w` shifted, for a P1 of 1. -/
theorem shifted_w_le_one {w : Int} (hlo : 24576 ≤ w) (hhi : w ≤ 40959) :
    (BitVec.ofInt 32 w).sshiftRight 15 = 0#32 ∨ (BitVec.ofInt 32 w).sshiftRight 15 = 1#32 := by
  have hshift : ((BitVec.ofInt 32 w).sshiftRight 15).toInt = w / 2 ^ 15 := by
    rw [toInt_sshiftRight_eq_ediv, toInt_ofInt_s32 (by omega)]
  obtain hzero | hone : w / 2 ^ 15 = 0 ∨ w / 2 ^ 15 = 1 := by omega
  · exact .inl (BitVec.eq_of_toInt_eq (hshift.trans hzero))
  · exact .inr (BitVec.eq_of_toInt_eq (hshift.trans hone))

/-- Settles O37: `w` lies in 24576..40959, so its product with P1 is 0, `w`, or between 2^15 and 2^32. -/
theorem denominatorIsZeroOnlyForTinyP1 : Obligations.DenominatorIsZeroOnlyForTinyP1 := by
  intro fine cal
  obtain ⟨j, hj⟩ := exists_j_denominator fine cal
  obtain ⟨hlo, hhi⟩ := p32W_range j
  have hword := (cal.get 3).isLt
  rw [hj, mul32, narrowS_value, coef32_p1_toInt]
  generalize (add32 32768#32 (j.sshiftRight 18)).value.toInt = w at *
  refine ⟨fun hP1 => ?_, fun hP1 => ?_, fun hP1 => ?_⟩
  · rw [hP1, Nat.cast_zero, mul_zero]
    exact BitVec.zero_sshiftRight
  · rw [hP1, Nat.cast_one, mul_one]
    exact shifted_w_le_one hlo hhi
  · exact shifted_product_ne_zero (by nlinarith) (by nlinarith)

/-- R84, R85: a zero P1 makes the 64-bit denominator 0. -/
theorem p64Denominator_of_zero_p1 {cal : Cal} (hP1 : cal.get 3 = 0#16) (fine : S32) :
    (p64Denominator fine cal).value.2 = 0#64 := by
  have hcoef : coef64 cal .p1 = 0#64 := by
    apply BitVec.eq_of_toInt_eq
    rw [coef64, sext64_toInt, coef32_p1_toInt, hP1]
    rfl
  simp only [p64Denominator, next_value, hcoef, mul64_zero, asr64_eq, noPrimitive_value, BitVec.zero_sshiftRight]

/-- R79: a zero denominator gives 0 at once, with the flag set before it. -/
theorem fP32_of_zero_denominator {fine : S32} {cal : Cal} (h : (p32Denominator fine cal).value.2 = 0#32) (thr : U32)
    (rawP : U20) : fP32 thr rawP fine cal = ⟨0#32, (p32Denominator fine cal).ovf⟩ := by
  simp only [fP32, Calc.next, if_pos h, noPrimitive, Bool.or_false]

/-- R85: a zero denominator gives 0 at once, with the flag set before it. -/
theorem fP64_of_zero_denominator {fine : S32} {cal : Cal} (h : (p64Denominator fine cal).value.2 = 0#64)
    (rawP : U20) : fP64 rawP fine cal = ⟨0#32, (p64Denominator fine cal).ovf⟩ := by
  simp only [fP64, Calc.next, if_pos h, noPrimitive, Bool.or_false]

/-- Settles O35: both functions leave at once on a zero denominator, which a zero P1 gives. -/
theorem zeroDenominatorReturnsZero : Obligations.ZeroDenominatorReturnsZero := by
  refine ⟨fun thr rawP fine cal h => fP32_of_zero_denominator h thr rawP, fun thr rawP fine cal hP1 => ?_, by decide,
    fun s cal raw temp he hcal hraw htemp h => ?_⟩
  · have hzero := (denominatorIsZeroOnlyForTinyP1 fine cal).1 (by rw [hP1]; rfl)
    rw [fP32_of_zero_denominator hzero, fP64_of_zero_denominator (p64Denominator_of_zero_p1 hP1 fine)]
    exact ⟨rfl, rfl⟩
  · rw [exec_pcomp32_completes he hcal hraw htemp, fP32_of_zero_denominator h, writePPa]

/-! ## The division branch -/

/-- R80: the test against the source's literal. -/
theorem lt_p32Threshold_iff (p1 : U32) : p1 < Config.p32Threshold ↔ p1.toNat < 134217728 := Iff.rfl

/-- R80: below the threshold, double then divide; neither overflows. -/
theorem p32Quotient_below {p1 dv : U32} (hdv : dv ≠ 0#32) (h : p1.toNat < 134217728) :
    p32Quotient Config.p32Threshold p1 dv = noPrimitive (BitVec.ofNat 32 (2 * p1.toNat) / dv) := by
  have htwice : shlu32 p1 1 = noPrimitive (BitVec.ofNat 32 (2 * p1.toNat)) := by
    have hnumber : ((BitVec.ofNat 32 (2 * p1.toNat)).toNat : Int) = (p1.toNat : Int) * 2 ^ 1 := by
      rw [BitVec.toNat_ofNat]
      omega
    rw [shlu32, ← hnumber, narrowU_toNat]
  rw [p32Quotient, if_pos ((lt_p32Threshold_iff p1).2 h), htwice, noPrimitive_next, divu32_eq _ hdv]

/-- R80: from the threshold on, divide then double; only the doubling can overflow. -/
theorem p32Quotient_from {p1 dv : U32} (hdv : dv ≠ 0#32) (h : 134217728 ≤ p1.toNat) :
    p32Quotient Config.p32Threshold p1 dv = narrowU 32 ((p1.toNat / dv.toNat : Nat) * 2) := by
  rw [p32Quotient, if_neg (mt (lt_p32Threshold_iff p1).1 (not_lt.2 h)), divu32_eq _ hdv, noPrimitive_next, mulu32,
    BitVec.toNat_udiv]
  rfl

/-- R53: a nonzero divisor is positive. -/
theorem toNat_pos_of_ne_zero {dv : U32} (hdv : dv ≠ 0#32) : 0 < dv.toNat :=
  Nat.pos_of_ne_zero fun h => hdv (BitVec.eq_of_toNat_eq h)

/-- R80, R82(h): the doubled quotient does not fit only where it is the dividend. -/
theorem two_pow_le_quotient_iff (p1 : U32) {dv : U32} (hdv : dv ≠ 0#32) :
    2 ^ 31 ≤ p1.toNat / dv.toNat ↔ dv = 1#32 ∧ 2 ^ 31 ≤ p1.toNat := by
  have hpos := toNat_pos_of_ne_zero hdv
  have hlt := p1.isLt
  rw [Nat.le_div_iff_mul_le hpos]
  constructor
  · intro h
    have hone : dv.toNat = 1 := by nlinarith
    rw [hone, mul_one] at h
    exact ⟨BitVec.eq_of_toNat_eq hone, h⟩
  · rintro ⟨rfl, h⟩
    exact h

/-- Settles O36: each side of the threshold is one quotient, and `Nat.add_div` compares the quotient of the double with
the double of the quotient. -/
theorem thresholdBranchDividesAsStated : Obligations.ThresholdBranchDividesAsStated := by
  refine ⟨rfl, fun p1 dv hdv => ⟨fun hbelow => ?_, fun hfrom => ?_⟩⟩
  · rw [p32Quotient_below hdv hbelow]
    refine ⟨rfl, ?_⟩
    rw [noPrimitive_value, BitVec.toNat_udiv, BitVec.toNat_ofNat, Nat.mod_eq_of_lt (by omega)]
  · rw [p32Quotient_from hdv hfrom]
    refine ⟨?_, ?_, fun hovf => ?_⟩
    · rw [← two_pow_le_quotient_iff p1 hdv, ← Bool.not_eq_false, narrowU_ovf_eq_false]
      generalize p1.toNat / dv.toNat = quot
      omega
    · have hcongr := ofInt_congr 32 ((p1.toNat / dv.toNat : Nat) * 2)
      rw [narrowU_value]
      generalize p1.toNat / dv.toNat = quot at *
      omega
    · have hvalue : (narrowU 32 ((p1.toNat / dv.toNat : Nat) * 2)).value.toNat = p1.toNat / dv.toNat * 2 := by
        exact_mod_cast narrowU_exact hovf
      rw [hvalue, two_mul, Nat.add_div (toNat_pos_of_ne_zero hdv), mul_two, two_mul]

/-! ## The checks of the pressure operations -/

/-- R96: the first check that fails decides. -/
theorem exec_of_firstFault {i : Instr} {s : State} {f : FaultCause} (he : s.err = false)
    (h : firstFault i s = some f) : exec i s = .next (raise f s) := by
  obtain ⟨g, hg, hx⟩ | ⟨hnone, -⟩ := exec_checks i he
  · obtain rfl : f = g := by simpa [h] using hg
    exact hx
  · simp [h] at hnone

section PressureChecks
variable {i : Instr} {s : State} (hi : i = .pcomp32 ∨ i = .pcomp64) (he : s.err = false)
include hi he

/-- R81, R87, R93: with no table loaded a pressure operation raises `NoCal`. -/
theorem exec_pressure_noCal (hcal : s.cal = none) : exec i s = .next (raise .noCal s) := by
  refine exec_of_firstFault he ?_
  obtain rfl | rfl := hi <;> simp [firstFault, Instr.wellFormed, hcal]

/-- R81, R87, R94: with a table but no sample a pressure operation raises `NoRaw`. -/
theorem exec_pressure_noRaw (hcal : s.cal.isSome) (hraw : s.raw = none) : exec i s = .next (raise .noRaw s) := by
  refine exec_of_firstFault he ?_
  obtain rfl | rfl := hi <;> simp [firstFault, Instr.wellFormed, ← Option.not_isSome, hcal, hraw]

/-- R81, R87, R95: with a table and a sample but no fine temperature a pressure operation raises `NoFine`. -/
theorem exec_pressure_noFine (hcal : s.cal.isSome) (hraw : s.raw.isSome) (htemp : s.temp = none) :
    exec i s = .next (raise .noFine s) := by
  refine exec_of_firstFault he ?_
  obtain rfl | rfl := hi <;> simp [firstFault, Instr.wellFormed, ← Option.not_isSome, hcal, hraw, htemp]

end PressureChecks

/-- Settles O47: the checks of `PCOMP32` are `ERR`, the table, the sample and the fine temperature; then it writes the
pressure. -/
theorem pcompThirtyTwoComputesThePressure : Obligations.PcompThirtyTwoComputesThePressure := fun _ =>
  ⟨rfl, fun he => exec_of_err he _, fun _ _ hill he => performRequest_of_cmdIllegal hill he,
    exec_pressure_noCal (.inl rfl), exec_pressure_noRaw (.inl rfl), exec_pressure_noFine (.inl rfl),
    fun _ _ _ => exec_pcomp32_completes⟩

/-! ## Both variants -/

/-- R93 to R96: both variants make the same checks. -/
theorem firstFault_pcomp64 (s : State) : firstFault .pcomp64 s = firstFault .pcomp32 s := rfl

/-- R96: a pressure operation that fails no check finds its three operands. -/
theorem operands_of_firstFault_pcomp32 {s : State} (h : firstFault .pcomp32 s = none) :
    ∃ cal raw temp, s.cal = some cal ∧ s.raw = some raw ∧ s.temp = some temp := by
  cases hcal : s.cal <;> cases hraw : s.raw <;> cases htemp : s.temp <;>
    simp [firstFault, Instr.wellFormed, hcal, hraw, htemp] at h ⊢

/-- R81, R87: the two writes are to different registers, and `OVF` takes both flags. -/
theorem writePQ8_writePPa (p q : U32) (ovfP ovfQ : Bool) (s : State) :
    writePQ8 q ovfQ (writePPa p ovfP s) = writePPa p ovfP (writePQ8 q ovfQ s) := by
  simp [writePQ8, writePPa, Bool.or_right_comm]

/-- Settles O52: ignored or faulted, either order ends after its first request; performed, each variant finds the
operands the other one left as they were. -/
theorem pressureVariantsCommute : Obligations.PressureVariantsCommute := by
  intro s
  cases he : s.err with
  | true => rw [execAll_of_err he, execAll_of_err he]
  | false =>
    cases hfault : firstFault .pcomp32 s with
    | some f =>
      have hraised : (raise f s).err = true := raise_err s f
      rw [execAll_cons_of_next (exec_of_firstFault he hfault), execAll_of_err hraised,
        execAll_cons_of_next (exec_of_firstFault he ((firstFault_pcomp64 s).trans hfault)), execAll_of_err hraised]
    | none =>
      obtain ⟨cal, raw, temp, hcal, hraw, htemp⟩ := operands_of_firstFault_pcomp32 hfault
      rw [execAll_cons_of_next (exec_pcomp32_completes he hcal hraw htemp),
        execAll_cons_of_next (exec_pcomp64_completes (s := writePPa _ _ s) he hcal hraw htemp),
        execAll_cons_of_next (exec_pcomp64_completes he hcal hraw htemp),
        execAll_cons_of_next (exec_pcomp32_completes (s := writePQ8 _ _ s) he hcal hraw htemp), writePQ8_writePPa]

end Sys2Proof.Proofs

/-! PROOFS. The 64-bit pressure family: what the chain of `F_P64` computes when nothing overflows, that nothing before
the product with P1 does for any `fine` of `F_TFINE`, its early exit, and what `PCOMP64` does. -/

namespace Sys2Proof.Proofs

open Sys2Proof.Machine Sys2Proof.Claims

/-! ## `F_P64` without `ovf` -/

/-- R84: the exact `v1a`. -/
def p64V1a (fine : Int) : Int := fine - 128000

/-- R84: the exact `sq`. -/
def p64Sq (fine : Int) : Int := p64V1a fine ^ 2

/-- R84: the exact `v2c`. -/
def p64V2c (fine : Int) (cal : Cal) : Int :=
  p64Sq fine * pNumber cal 6 + p64V1a fine * pNumber cal 5 * 2 ^ 17 + pNumber cal 4 * 2 ^ 35

/-- R84: the exact `v1b`. -/
def p64V1b (fine : Int) (cal : Cal) : Int :=
  p64Sq fine * pNumber cal 3 / 2 ^ 8 + p64V1a fine * pNumber cal 2 * 2 ^ 12

/-- R84: the exact denominator `v1c`. -/
def p64V1c (fine : Int) (cal : Cal) : Int := (2 ^ 47 + p64V1b fine cal) * pNumber cal 1 / 2 ^ 33

/-- R84: the exact `p1`, the quotient toward zero. -/
def p64P1 (rawP v2c v1c : Int) : Int := (((1048576 - rawP) * 2 ^ 31 - v2c) * 3125).tdiv v1c

/-- R84: the exact result from `p1` on. -/
def p64Final (p1 : Int) (cal : Cal) : Int :=
  (p1 + pNumber cal 9 * (p1 / 2 ^ 13) * (p1 / 2 ^ 13) / 2 ^ 25 + pNumber cal 8 * p1 / 2 ^ 19) / 2 ^ 8
    + pNumber cal 7 * 2 ^ 4

/-- R84, R85: the exact formula, cut where the model cuts it. -/
theorem p64Exact_eq (rawP fine : Int) (cal : Cal) :
    p64Exact rawP fine cal =
      if p64V1c fine cal = 0 then 0 else p64Final (p64P1 rawP (p64V2c fine cal) (p64V1c fine cal)) cal := rfl

/-- R63: a coefficient has the same number at both widths. -/
theorem coef64_toInt (cal : Cal) (c : Coef) : (coef64 cal c).toInt = (coef32 cal c).toInt := sext64_toInt _

/-- R84: a raw value is used as a non-negative `s64`. -/
theorem toInt_setWidth_u20_s64 (v : U20) : (v.setWidth 64 : S64).toInt = v.toNat := by
  have hlt := v.isLt
  rw [BitVec.toInt_setWidth]
  exact Int.bmod_eq_of_le (by omega) (by omega)

/-- R84: the chain up to `v1b`, one primitive after the other. -/
theorem p64Terms_exact (fine : S32) (cal : Cal) :
    UnlessOvf (p64Terms fine cal) fun v =>
      v.1.toInt = p64V2c fine.toInt cal ∧ v.2.toInt = p64V1b fine.toInt cal := by
  refine signed_next fun v1a hv1a => signed_next fun sq hsq => signed_next fun v2a hv2a =>
    signed_next fun t5a ht5a => signed_next fun t5 ht5 => signed_next fun v2b hv2b => signed_next fun p4 hp4 =>
    signed_next fun v2c hv2c => signed_next fun sq3 hsq3 => signed_next fun sq8 hsq8 => signed_next fun lin hlin =>
    signed_next fun lin12 hlin12 => signed_next fun v1b hv1b => unlessOvf_noPrimitive ?_
  obtain ⟨-, hP2, hP3, hP4, hP5, hP6, -⟩ := coef32_pNumber cal
  have hdiff : v1a.toInt = p64V1a fine.toInt := by simp [hv1a, p64V1a]
  have hsquare : sq.toInt = p64Sq fine.toInt := by simp [hsq, hdiff, p64Sq, pow_two]
  constructor
  · simp [hv2c, hp4, hv2b, ht5, ht5a, hv2a, hsquare, hdiff, coef64_toInt, hP4, hP5, hP6, p64V2c]
  · simp [hv1b, hlin12, hlin, hsq8, hsq3, hsquare, hdiff, coef64_toInt, hP2, hP3, p64V1b]

/-- R84: the chain up to the denominator. -/
theorem p64Denominator_exact (fine : S32) (cal : Cal) :
    UnlessOvf (p64Denominator fine cal) fun v =>
      v.1.toInt = p64V2c fine.toInt cal ∧ v.2.toInt = p64V1c fine.toInt cal := by
  refine (p64Terms_exact fine cal).next ?_
  rintro ⟨v2c, v1b⟩ ⟨hv2c, hv1b⟩
  refine signed_next fun w hw => signed_next fun k hk => signed_next fun v1c hv1c =>
    unlessOvf_noPrimitive ⟨hv2c, ?_⟩
  obtain ⟨hP1, -⟩ := coef32_pNumber cal
  simp [hv1c, hk, hw, hv1b, coef64_toInt, hP1, p64V1c]

/-- R84: the chain from `p0` on, one primitive after the other. -/
theorem p64Result_exact (rawP : U20) (v2c : S64) {v1c : S64} (hv1c : v1c ≠ 0#64) (cal : Cal) :
    UnlessOvf (p64Result rawP v2c v1c cal) fun p =>
      (p.toNat : Int) = p64Final (p64P1 rawP.toNat v2c.toInt v1c.toInt) cal := by
  simp only [p64Result, sdiv64_of_ne hv1c]
  refine signed_next fun p0 hp0 => signed_next fun p0s hp0s => signed_next fun diff hdiff => signed_next fun n hn =>
    signed_next fun p1 hp1 => signed_next fun r hr => signed_next fun p9r hp9r => signed_next fun p9rr hp9rr =>
    signed_next fun v1d hv1d => signed_next fun p8p1 hp8p1 => signed_next fun v2d hv2d => signed_next fun s1 hs1 =>
    signed_next fun s2 hs2 => signed_next fun s8 hs8 => signed_next fun p7 hp7 => signed_next fun p2 hp2 => ?_
  obtain ⟨-, -, -, -, -, -, hP7, hP8, hP9⟩ := coef32_pNumber cal
  have hfirst : p1.toInt = p64P1 rawP.toNat v2c.toInt v1c.toInt := by
    rw [toInt_setWidth_u20_s64] at hp0
    simp [hp1, hn, hdiff, hp0s, hp0, p64P1]
  have hlast : p2.toInt = p64Final p1.toInt cal := by
    simp [hp2, hp7, hs8, hs2, hs1, hv2d, hp8p1, hv1d, hp9rr, hp9r, hr, coef64_toInt, hP7, hP8, hP9, p64Final]
  rw [← hfirst, ← hlast]
  exact unlessOvf_narrowU _

/-- Settles O39: each primitive hands its exact result on, and a zero denominator is a zero number. -/
theorem pressureSixtyFourIsExactWithoutOverflow : Obligations.PressureSixtyFourIsExactWithoutOverflow := by
  intro rawP fine cal
  change UnlessOvf (fP64 rawP fine cal) fun p => (p.toNat : Int) = p64Exact rawP.toNat fine.toInt cal
  refine (p64Denominator_exact fine cal).next ?_
  rintro ⟨v2c, v1c⟩ ⟨hv2c, hv1c⟩
  have hzero : v1c = 0#64 ↔ p64V1c fine.toInt cal = 0 := by
    rw [← hv1c, ← BitVec.toInt_inj]
    rfl
  rw [p64Exact_eq, ← if_congr hzero rfl rfl, ← hv2c, ← hv1c]
  by_cases h : v1c = 0#64
  · simp only [if_pos h]
    exact unlessOvf_noPrimitive rfl
  · simp only [if_neg h]
    exact p64Result_exact rawP v2c h cal

/-! ## The early exit -/

/-- Settles O40: the exit is taken on a zero denominator, which a zero P1 gives and, on the source's table, a P1 of 1
does not. -/
theorem zeroDenominatorSixtyFourReturnsZero : Obligations.ZeroDenominatorSixtyFourReturnsZero := by
  refine ⟨fun rawP fine cal h => fP64_of_zero_denominator h rawP, fun fine _ hP1 => p64Denominator_of_zero_p1 hP1 fine,
    by decide, fun s cal raw temp he hcal hraw htemp h => ?_⟩
  rw [exec_pcomp64_completes he hcal hraw htemp, fP64_of_zero_denominator h, writePQ8]

/-! ## Evaluations that cannot overflow -/

/-- R49: no primitive of `c` sets `ovf`, and its value is as `P` says. -/
def NoOvf {α : Type} (c : Calc α) (P : α → Prop) : Prop := c.ovf = false ∧ P c.value

/-- The size of an `s64` is at most `bound`. -/
def AtMost (bound : Nat) (a : S64) : Prop := a.toInt.natAbs ≤ bound

section NoOvf
variable {α β : Type} {P : α → Prop} {Q : β → Prop} {a b : S64} {A B : Nat}

theorem noOvf_noPrimitive {v : α} (h : P v) : NoOvf (noPrimitive v) P := ⟨rfl, h⟩

/-- R49, R59: what the first evaluation has computed is all that the second one is told of it. -/
theorem NoOvf.next {c : Calc α} {f : α → Calc β} (hc : NoOvf c P) (hf : ∀ v, P v → NoOvf (f v) Q) :
    NoOvf (c.next f) Q := by
  obtain ⟨hovf, hvalue⟩ := hc
  obtain ⟨hovf', hvalue'⟩ := hf c.value hvalue
  exact ⟨Bool.or_eq_false_iff.2 ⟨hovf, hovf'⟩, hvalue'⟩

/-- R49: an exact result of size below 2^63 fits an `s64`. -/
theorem noOvf_narrowS {e : Int} {M : Nat} (he : e.natAbs ≤ M) (hM : M < 2 ^ 63) : NoOvf (narrowS 64 e) (AtMost M) := by
  have hovf : (narrowS 64 e).ovf = false := narrowS_ovf_eq_false.2 (by omega)
  refine ⟨hovf, ?_⟩
  rwa [AtMost, narrowS_exact (by decide) hovf]

/-- R55: a sum is at most the sum of the sizes. -/
theorem add64_noOvf (ha : AtMost A a) (hb : AtMost B b) (h : A + B < 2 ^ 63) :
    NoOvf (add64 a b) (AtMost (A + B)) :=
  noOvf_narrowS ((Int.natAbs_add_le _ _).trans (Nat.add_le_add ha hb)) h

/-- R55: a product is at most the product of the sizes. -/
theorem mul64_noOvf (ha : AtMost A a) (hb : AtMost B b) (h : A * B < 2 ^ 63) :
    NoOvf (mul64 a b) (AtMost (A * B)) :=
  noOvf_narrowS ((Int.natAbs_mul _ _).trans_le (Nat.mul_le_mul ha hb)) h

/-- R55: a left shift multiplies the size. -/
theorem shl64_noOvf (ha : AtMost A a) (k : Nat) (h : A * 2 ^ k < 2 ^ 63) :
    NoOvf (shl64 a k) (AtMost (A * 2 ^ k)) := by
  refine noOvf_narrowS ?_ h
  rw [Int.natAbs_mul, Int.natAbs_pow]
  exact Nat.mul_le_mul_right _ ha

/-- R52, R55: an arithmetic right shift makes nothing larger. -/
theorem asr64_noOvf (ha : AtMost A a) (k : Nat) : NoOvf (asr64 a k) (AtMost A) := by
  rw [asr64_eq]
  refine noOvf_noPrimitive ?_
  rw [AtMost, toInt_sshiftRight_eq_ediv]
  exact (Int.natAbs_ediv_le_natAbs _ _).trans ha

end NoOvf

/-! ## Up to the product with P1 -/

/-- R88(a): the size of the difference, for every `fine`. -/
theorem fine_difference_natAbs_le (fine : S32) : (fine.toInt - 128000).natAbs ≤ 2147611648 := by
  have hrange := toInt_s32_range fine
  omega

/-- R84: the difference, for a `fine` at most `V` away from 128000. -/
theorem p64_difference_noOvf {fine : S32} {V : Nat} (hV : (fine.toInt - 128000).natAbs ≤ V) (h : V < 2 ^ 63) :
    NoOvf (sub64 (sext64 fine) 128000#64) (AtMost V) := by
  refine noOvf_narrowS ?_ h
  rwa [sext64_toInt]

/-- R88: with differences up to `V` and coefficients up to `C` in size, no sum or product of R84 before that with P1
reaches 2^63. -/
def FitsBeforeP1 (V C : Nat) : Prop := V * V + V * V * C + V * C * 2 ^ 17 + C * 2 ^ 35 + 2 ^ 47 < 2 ^ 63

/-- R13, R63: the coefficients read signed are at most `C` in size. -/
def CoefsAtMost (C : Nat) (cal : Cal) : Prop := ∀ c, coefUnsigned c = false → AtMost C (coef64 cal c)

/-- R13: a coefficient read signed is at most 2^15 in size. -/
theorem coefsAtMost_of_signed (cal : Cal) : CoefsAtMost 32768 cal := by
  intro c hc
  have hlo := (coefWord cal c).le_toInt
  have hhi := (coefWord cal c).toInt_lt
  rw [AtMost, coef64_toInt, coef32_toInt_signed cal hc]
  omega

/-- R63: the coefficients of the all-zero table are 0. -/
theorem coefsAtMost_replicate_zero : CoefsAtMost 0 (Vector.replicate 12 0#16) := by
  intro c _
  rw [AtMost, coef64_toInt, coef32_replicate_zero]
  decide

/-- R63: a zero word P1 is a coefficient of 0. -/
theorem coef64_p1_of_zero {cal : Cal} (hP1 : cal.get 3 = 0#16) : coef64 cal .p1 = 0#64 := by
  apply BitVec.eq_of_toInt_eq
  rw [coef64_toInt, coef32_p1_toInt, hP1]
  rfl

/-- R88(b): the sum of 2^47 and `v1b`, where `v1b` has the size `p64Terms_noOvf` states. -/
theorem p64_sum_noOvf {V C : Nat} {v1b : S64} (hroom : FitsBeforeP1 V C)
    (hv1b : AtMost (V * V * C + V * C * 2 ^ 12) v1b) :
    NoOvf (add64 140737488355328#64 v1b) (AtMost (2 ^ 47 + (V * V * C + V * C * 2 ^ 12))) := by
  rw [FitsBeforeP1] at hroom
  have hconst : AtMost (2 ^ 47) 140737488355328#64 := by rw [AtMost]; decide
  exact add64_noOvf hconst hv1b (by omega)

section BeforeP1
variable {fine : S32} {cal : Cal} {V C : Nat} (hV : (fine.toInt - 128000).natAbs ≤ V) (hC : CoefsAtMost C cal)
  (hroom : FitsBeforeP1 V C)
include hV hC hroom

/-- R88(b): the chain up to `v1b`, one primitive after the other, with the size of `v1b`. -/
theorem p64Terms_noOvf :
    NoOvf (p64Terms fine cal) fun v => AtMost (V * V * C + V * C * 2 ^ 12) v.2 := by
  rw [FitsBeforeP1] at hroom
  have hVV : V ≤ V * V := Nat.le_mul_self V
  refine (p64_difference_noOvf hV (by omega)).next fun v1a hv1a => ?_
  refine (mul64_noOvf hv1a hv1a (by omega)).next fun sq hsq => ?_
  refine (mul64_noOvf hsq (hC .p6 rfl) (by omega)).next fun v2a hv2a => ?_
  refine (mul64_noOvf hv1a (hC .p5 rfl) (by omega)).next fun t5a ht5a => ?_
  refine (shl64_noOvf ht5a 17 (by omega)).next fun t5 ht5 => ?_
  refine (add64_noOvf hv2a ht5 (by omega)).next fun v2b hv2b => ?_
  refine (shl64_noOvf (hC .p4 rfl) 35 (by omega)).next fun p4 hp4 => ?_
  refine (add64_noOvf hv2b hp4 (by omega)).next fun v2c _ => ?_
  refine (mul64_noOvf hsq (hC .p3 rfl) (by omega)).next fun sq3 hsq3 => ?_
  refine (asr64_noOvf hsq3 8).next fun sq8 hsq8 => ?_
  refine (mul64_noOvf hv1a (hC .p2 rfl) (by omega)).next fun lin hlin => ?_
  refine (shl64_noOvf hlin 12 (by omega)).next fun lin12 hlin12 => ?_
  exact (add64_noOvf hsq8 hlin12 (by omega)).next fun v1b hv1b => noOvf_noPrimitive hv1b

/-- R88(b): with a P1 of 0 the product and its shift, the denominator, are 0. -/
theorem p64Denominator_noOvf_of_zero_p1 (hP1 : cal.get 3 = 0#16) :
    NoOvf (p64Denominator fine cal) fun v => v.2 = 0#64 := by
  refine (p64Terms_noOvf hV hC hroom).next fun v hv1b => (p64_sum_noOvf hroom hv1b).next fun w _ => ?_
  rw [coef64_p1_of_zero hP1, mul64_zero, noPrimitive_next, asr64_eq, noPrimitive_next]
  exact noOvf_noPrimitive BitVec.zero_sshiftRight

end BeforeP1

/-- Settles O41: with coefficients of size 0 every difference leaves room before the product with P1, and with
coefficients up to 2^15 the differences for `|fine|` up to 1179648 do. -/
theorem wideDenominatorIsExactBeforeP1 : Obligations.WideDenominatorIsExactBeforeP1 := by
  have hroomZero : FitsBeforeP1 2147611648 0 := by rw [FitsBeforeP1]; decide
  have hroomAny : FitsBeforeP1 1307648 32768 := by rw [FitsBeforeP1]; decide
  refine ⟨fun fine => ?_, fun fine cal hfine => ?_⟩
  · have hV := fine_difference_natAbs_le fine
    obtain ⟨hdiff, hsize⟩ := p64_difference_noOvf hV (by decide)
    obtain ⟨hsquare, -⟩ := mul64_noOvf hsize hsize (by decide)
    obtain ⟨hdenominator, -⟩ := p64Denominator_noOvf_of_zero_p1 hV coefsAtMost_replicate_zero hroomZero rfl
    exact ⟨hdiff, hsquare, hdenominator⟩
  · have hV : (fine.toInt - 128000).natAbs ≤ 1307648 := by omega
    have hC := coefsAtMost_of_signed cal
    obtain ⟨hterms, hv1b⟩ := p64Terms_noOvf hV hC hroomAny
    obtain ⟨hsum, -⟩ := p64_sum_noOvf hroomAny hv1b
    refine ⟨hterms, hsum, fun hP1 => ?_⟩
    obtain ⟨hdenominator, -⟩ := p64Denominator_noOvf_of_zero_p1 hV hC hroomAny hP1
    exact hdenominator

/-! ## `PCOMP64` -/

/-- Settles O48: the checks of `PCOMP64` are `ERR`, the table, the sample and the fine temperature; then it writes the
pressure. -/
theorem pcompSixtyFourComputesThePressure : Obligations.PcompSixtyFourComputesThePressure := fun _ =>
  ⟨rfl, fun he => exec_of_err he _, fun _ _ hill he => performRequest_of_cmdIllegal hill he,
    exec_pressure_noCal (.inr rfl), exec_pressure_noRaw (.inr rfl), exec_pressure_noFine (.inr rfl),
    fun _ _ _ => exec_pcomp64_completes⟩

end Sys2Proof.Proofs

/-! PROOFS. The exceptions family: the order of the checks, what fault entry changes, the halted core, and the table
that only the reset input unloads. -/

namespace Sys2Proof.Proofs

open Sys2Proof.Machine Sys2Proof.Claims

/-! ## Requests while `ERR` = 1 -/

/-- R34, R44: bytes as long as their command byte says are exactly one request. -/
theorem decode_of_length_eq {cmd : Byte} {payload : List Byte} (h : (cmd :: payload).length = requestLength cmd) :
    (∃ i, decode (cmd :: payload) = .instr i []) ∨ decode (cmd :: payload) = .illegalOp cmd [] := by
  simpa only [List.drop_eq_nil_of_le h.le] using decode_of_le_length h.ge

/-- R98: while `ERR` = 1 a request, legal or not, is taken and changes nothing. -/
theorem performRequest_of_err {cmd : Byte} {payload : List Byte} {s : State} (he : s.err = true)
    (h : (cmd :: payload).length = requestLength cmd) : performRequest (cmd :: payload) s = .next s := by
  obtain ⟨i, hd⟩ | hd := decode_of_length_eq h
  · rw [performRequest_of_instr hd, exec_of_err he]
  · rw [performRequest_of_illegalOp hd, illegalRequest, perform_of_err he]

/-- Settles O17: a request is taken off what the host presents and ignored, and so is any step that takes no reset
input. -/
theorem haltedCoreIgnoresRequests : Obligations.HaltedCoreIgnoresRequests := by
  refine ⟨fun s cmd payload port he hp hlen => ?_, fun s t he h hr => ?_⟩
  · rw [step_request hp]
    exact performRequest_of_err (s := setPort port s) he hlen
  · obtain ⟨port, rfl⟩ := step_of_err h he hr
    rfl

/-! ## The checks and fault entry -/

/-- R96: with `ERR` = 0 and no check that fails, the operation is performed and raises nothing. -/
theorem exec_of_firstFault_none {i : Instr} {s : State} (he : s.err = false) (h : firstFault i s = none) :
    ∃ t, exec i s = .next t ∧ t.err = false ∧ t.ecause = s.ecause := by
  obtain ⟨f, hf, -⟩ | ⟨-, hdone⟩ := exec_checks i he
  · simp [h] at hf
  · exact hdone

/-- Settles O15: `ERR` is looked at first, then the checks in their order; an illegal byte fails the check of legality,
which comes before the valid bits. -/
theorem checksAreMadeInOrder : Obligations.ChecksAreMadeInOrder := by
  refine ⟨fun i s => ⟨fun he => exec_of_err he i, fun f => exec_of_firstFault, exec_of_firstFault_none⟩,
    fun cmd s hill => ?_⟩
  split
  case isTrue he => exact performRequest_of_err he (requestLength_of_cmdIllegal hill).symm
  case isFalse he => exact performRequest_of_cmdIllegal hill (Bool.eq_false_of_not_eq_true he)

/-- Settles O16: a request that sets `ERR` has entered the fault of its first failed check, and fault entry writes two
fields. From reset, `TCOMP` fails the check of the table. -/
theorem faultEntryChangesOnlyErrAndEcause : Obligations.FaultEntryChangesOnlyErrAndEcause :=
  ⟨rfl, rfl, rfl, rfl, rfl, fun _ _ => rfl, fun _ _ _ => performRequest_sets_err,
    _, exec_tcomp_noCal reset_err reset_cal, rfl, rfl⟩

/-! ## The loaded table -/

/-- R64, R97: an `LDCAL` that leaves `ERR` clear was neither ignored nor faulted, so it loaded its table. -/
theorem cal_of_exec_ldcal {buf : CalBuf} {s t : State} (h : exec (.ldcal buf) s = .next t) (ht : t.err = false) :
    t.cal = some (fParse buf) := by
  rw [exec_ldcal] at h
  split_ifs at h with he hcal <;> cases h
  · simp [he] at ht
  · simp at ht
  · exact loadCal_cal s _

/-- R14, R92: no operation changes a loaded table; `LDCAL` writes one only where there is none. -/
theorem exec_keeps_cal {i : Instr} {s t : State} {cal : Cal} (h : exec i s = .next t) (hs : s.cal = some cal) :
    t.cal = some cal := by
  obtain hsame | ⟨-, buf, rfl⟩ := (exec_writes h).cal
  · rw [hsame, hs]
  · rw [exec_ldcal] at h
    split_ifs at h with he hcal <;> cases h
    · exact hs
    · rw [raise_cal, hs]
    · simp [hs] at hcal

/-- R14, R109: a step that takes no reset input keeps a loaded table. -/
theorem step_keeps_cal {s t : State} {cal : Cal} (h : step s = .next t) (hr : s.port.head? ≠ some .reset)
    (hs : s.cal = some cal) : t.cal = some cal := by
  rcases step_cases h with ⟨-, rfl⟩ | ⟨port, hp, -⟩ | ⟨-, i, port, -, -, hi⟩ | ⟨-, -, port, -, -, hi⟩
  · exact hs
  · simp [hp] at hr
  · exact exec_keeps_cal hi hs
  · obtain ⟨-, rfl⟩ | ⟨-, rfl⟩ := illegalRequest_cases hi <;> exact hs

/-- Settles O54: a completed `LDCAL` leaves a table, so the next one fails its check, and fault entry keeps the table;
so does every step but the reset input. -/
theorem tableIsImmutableUntilReset : Obligations.TableIsImmutableUntilReset := by
  refine ⟨fun buf buf' s t h ht => ?_, fun s t cal => step_keeps_cal⟩
  have hcal := cal_of_exec_ldcal h ht
  exact ⟨exec_ldcal_locked ht (Option.isSome_of_eq_some hcal) buf', by rw [raise_cal, hcal]⟩

end Sys2Proof.Proofs

/-! PROOFS. The reset family: what only the reset input clears, the boot order, and runs: every step takes one event,
every proper list is performed to its end, and a faulted run ignores what follows. -/

namespace Sys2Proof.Proofs

open Sys2Proof.Machine Sys2Proof.Safety Sys2Proof.Claims

/-! ## What only the reset input clears -/

/-- R22, R24, R25, R105: the flags, the cause and the valid bits that no event but the reset input clears. -/
structure ClearsNothing (s t : State) : Prop where
  err : s.err = true → t.err = true
  ecause : s.ecause ≠ 0#3 → t.ecause ≠ 0#3
  ovf : s.ovf = true → t.ovf = true
  cal : s.cal.isSome → t.cal.isSome
  raw : s.raw.isSome → t.raw.isSome
  coef : s.coef.isSome → t.coef.isSome

theorem clearsNothing_refl (s : State) : ClearsNothing s s := ⟨id, id, id, id, id, id⟩

/-- Fault entry sets `ERR`, stores a code that is not 0, and leaves the rest. -/
theorem clearsNothing_raise (f : FaultCause) (s : State) : ClearsNothing s (raise f s) :=
  ⟨fun _ => rfl, fun _ => faultCode_ne_zero f, id, id, id, id⟩

/-- R22: a register that is only ever given a value keeps holding one. -/
theorem isSome_of_only_set {α : Type} {new old : Option α} {setter : Prop} (h : new = old ∨ new.isSome ∧ setter)
    (hold : old.isSome) : new.isSome := by
  obtain rfl | ⟨hnew, -⟩ := h
  · exact hold
  · exact hnew

/-- No operation, ignored, faulted or performed, clears any of them. -/
theorem exec_clearsNothing {i : Instr} {s t : State} (h : exec i s = .next t) : ClearsNothing s t := by
  obtain ⟨hcal, hraw, -, -, -, hcoef, -, hovf, -, -⟩ := exec_writes h
  obtain ⟨herr, hcause⟩ | ⟨f, rfl⟩ := exec_keeps_err_or_raises h
  · exact ⟨herr.trans, hcause.trans_ne, hovf, isSome_of_only_set hcal, isSome_of_only_set hraw,
      isSome_of_only_set hcoef⟩
  · exact clearsNothing_raise f s

/-- What the host has still to present is none of them. -/
theorem clearsNothing_of_setPort {s t : State} {port : List HostEvent} (h : ClearsNothing (setPort port s) t) :
    ClearsNothing s t :=
  ⟨h.err, h.ecause, h.ovf, h.cal, h.raw, h.coef⟩

/-- R105: a step that takes no reset input clears none of them. -/
theorem step_clearsNothing {s t : State} (h : step s = .next t) (hr : s.port.head? ≠ some .reset) :
    ClearsNothing s t := by
  rcases step_cases h with ⟨-, rfl⟩ | ⟨port, hp, -⟩ | ⟨-, i, port, -, -, hi⟩ | ⟨-, -, port, -, -, hi⟩
  · exact clearsNothing_refl t
  · simp [hp] at hr
  · exact clearsNothing_of_setPort (exec_clearsNothing hi)
  · obtain ⟨-, rfl⟩ | ⟨-, rfl⟩ := illegalRequest_cases hi
    · exact clearsNothing_of_setPort (clearsNothing_refl _)
    · exact clearsNothing_of_setPort (clearsNothing_raise _ _)

/-- R92, R98: with a table loaded `LDCAL` is ignored or raises `CalLocked`; either way it ends with `ERR` = 1. -/
theorem err_of_exec_ldcal {buf : CalBuf} {s t : State} (h : exec (.ldcal buf) s = .next t) (hcal : s.cal.isSome) :
    t.err = true := by
  cases he : s.err with
  | true =>
    obtain rfl : s = t := by simpa [exec_of_err he] using h
    exact he
  | false =>
    obtain rfl : raise .calLocked s = t := by simpa [exec_ldcal_locked he hcal] using h
    exact raise_err s _

/-- Settles O11: the reset input writes the reset state; any other step clears nothing, so a loaded table stays loaded
and locks `LDCAL`. -/
theorem onlyTheResetInputClears : Obligations.OnlyTheResetInputClears := by
  refine ⟨fun s port hp => ⟨_, step_reset hp, rfl⟩, fun s t h hr => ?_⟩
  obtain ⟨herr, hcause, hovf, hcal, hraw, hcoef⟩ := step_clearsNothing h hr
  exact ⟨herr, hcause, hovf, hcal, hraw, hcoef, fun hs _ _ hu => err_of_exec_ldcal hu (hcal hs)⟩

/-! ## The boot order -/

/-- R36: requests that go on were performed one by one. -/
theorem execAll_cons_inv {i : Instr} {is : List Instr} {s t : State} (h : execAll (i :: is) s = .next t) :
    ∃ u, exec i s = .next u ∧ execAll is u = .next t := by
  obtain ⟨u, hu⟩ := exec_next i s
  exact ⟨u, hu, execAll_cons_of_next hu is ▸ h⟩

/-- R14: no list of requests changes a loaded table. -/
theorem execAll_keeps_cal {is : List Instr} {s t : State} {cal : Cal} (h : execAll is s = .next t)
    (hs : s.cal = some cal) : t.cal = some cal := by
  induction is generalizing s with
  | nil =>
    cases h
    exact hs
  | cons i is ih =>
    obtain ⟨u, hu, hrest⟩ := execAll_cons_inv h
    exact ih hrest (exec_keeps_cal hu hs)

/-- R106: with no table loaded, `LDCAL` and `LDRAW` can be performed in either order: they write different registers. -/
theorem execAll_loads_comm {s : State} (he : s.err = false) (hcal : s.cal = none) (buf : CalBuf) (m : MeasBuf)
    (is : List Instr) : execAll (.ldraw m :: .ldcal buf :: is) s = execAll (.ldcal buf :: .ldraw m :: is) s := by
  rw [execAll_cons_of_next (exec_ldraw_completes he m),
    execAll_cons_of_next (exec_ldcal_completes (s := loadRaw _ s) he hcal buf),
    execAll_cons_of_next (exec_ldcal_completes he hcal buf),
    execAll_cons_of_next (exec_ldraw_completes (s := loadCal _ s) he m)]
  rfl

/-- Settles O56: `LDCAL` loads the table, the requests for a sample complete with it and keep it, and the loads
commute. -/
theorem bootOrderCompletes : Obligations.BootOrderCompletes := by
  intro s buf m he hcal
  obtain ⟨t, hsample, ht, hraw, htemp, hpPa, hpQ8⟩ :=
    execAll_sample_completes (m := m) (s := loadCal (fParse buf) s) he rfl
  have hboot : execAll [.ldcal buf, .ldraw m, .tcomp, .pcomp32, .pcomp64] s = .next t := by
    rw [execAll_cons_of_next (exec_ldcal_completes he hcal buf), hsample]
  exact ⟨t, hboot, (execAll_loads_comm he hcal buf m _).trans hboot, ht, execAll_keeps_cal hsample rfl, hraw,
    _, htemp, temperature_tFine .., by rw [temperature_tX100, temperature_tFine], hpPa, hpQ8⟩

/-! ## Runs -/

/-- R5, R113: a step takes exactly one event of what the host presents. -/
theorem step_port {s t : State} {event : HostEvent} {events : List HostEvent} (hp : s.port = event :: events)
    (h : step s = .next t) : t.port = events := by
  cases event with
  | reset =>
    obtain rfl : assertReset (setPort events s) = t := by simpa [step_reset hp] using h
    rfl
  | request bytes =>
    rw [step_request hp] at h
    exact performRequest_port h

/-- R34, R113: a reset input or a proper request is performed. -/
theorem step_next_of_proper {s : State} {event : HostEvent} {events : List HostEvent} (hp : s.port = event :: events)
    (hproper : AllRequestsProper (event :: events)) : ∃ t, step s = .next t := by
  cases event with
  | reset => exact ⟨_, step_reset hp⟩
  | request bytes =>
    obtain ⟨cmd, payload, rfl, hlen⟩ := hproper bytes (List.mem_cons_self ..)
    rw [step_request hp]
    exact performRequest_of_length_eq hlen _

/-- R113: what is left of a proper list is proper. -/
theorem allRequestsProper_tail {event : HostEvent} {events : List HostEvent}
    (h : AllRequestsProper (event :: events)) : AllRequestsProper events :=
  fun bytes hmem => h bytes (List.mem_cons_of_mem _ hmem)

/-- R113: events that go on were performed one by one. -/
theorem performEvents_succ_inv {n : Nat} {s t : State} (h : performEvents (n + 1) s = .next t) :
    ∃ u, step s = .next u ∧ performEvents n u = .next t := by
  rw [performEvents] at h
  split at h
  case h_1 u hu => exact ⟨u, hu, h⟩
  all_goals cases h

/-- R113: a proper list presented in a reachable state is performed to its end. -/
theorem performEvents_ends {events : List HostEvent} {s : State} (hs : Reachable s) (hp : s.port = events)
    (hproper : AllRequestsProper events) :
    ∃ t, performEvents events.length s = .next t ∧ Reachable t ∧ Final t := by
  induction events generalizing s with
  | nil => exact ⟨s, rfl, hs, hp⟩
  | cons event events ih =>
    obtain ⟨u, hu⟩ := step_next_of_proper hp hproper
    obtain ⟨t, ht, hreach, hfinal⟩ := ih (.step hs hu) (step_port hp hu) (allRequestsProper_tail hproper)
    exact ⟨t, (performEvents_succ hu _).trans ht, hreach, hfinal⟩

/-- R113: a final state is good or faulted. -/
theorem goodFinal_or_faultedFinal {s : State} (h : Final s) : GoodFinal s ∨ FaultedFinal s := by
  cases he : s.err with
  | false => exact .inl ⟨h, he⟩
  | true => exact .inr ⟨h, he⟩

/-- What the host presents after an event does not influence the step that takes the event. -/
theorem step_append {s t : State} {event : HostEvent} {events : List HostEvent} (hp : s.port = event :: events)
    (h : step s = .next t) (after : List HostEvent) :
    step (setPort (event :: (events ++ after)) s) = .next (setPort (events ++ after) t) := by
  cases event with
  | reset =>
    obtain rfl : assertReset (setPort events s) = t := by simpa [step_reset hp] using h
    exact step_reset rfl
  | request bytes =>
    rw [step_request hp] at h
    exact (step_request rfl).trans (performRequest_setPort h _)

/-- R113: what the host presents after a list does not influence how the list is performed, and is left over. -/
theorem performEvents_append {events : List HostEvent} {s t : State} (hp : s.port = events)
    (h : performEvents events.length s = .next t) (after : List HostEvent) :
    performEvents events.length (setPort (events ++ after) s) = .next (setPort after t) := by
  induction events generalizing s with
  | nil =>
    cases h
    rfl
  | cons event events ih =>
    obtain ⟨u, hu, hrest⟩ := performEvents_succ_inv h
    exact (performEvents_succ (step_append hp hu after) _).trans (ih (step_port hp hu) hrest)

/-- R98: while `ERR` = 1 a proper list without a reset input is taken and changes nothing. -/
theorem performEvents_of_err {events : List HostEvent} {s : State} (he : s.err = true)
    (hproper : AllRequestsProper events) (hr : HostEvent.reset ∉ events) :
    performEvents events.length (setPort events s) = .next (setPort [] s) := by
  induction events with
  | nil => rfl
  | cons event events ih =>
    cases event with
    | reset => exact absurd (List.mem_cons_self ..) hr
    | request bytes =>
      obtain ⟨cmd, payload, rfl, hlen⟩ := hproper bytes (List.mem_cons_self ..)
      have hstep : step (setPort (.request (cmd :: payload) :: events) s) = .next (setPort events s) :=
        (step_request rfl).trans (performRequest_of_err (s := setPort events s) he hlen)
      exact (performEvents_succ hstep _).trans
        (ih (allRequestsProper_tail hproper) fun hmem => hr (List.mem_cons_of_mem _ hmem))

/-- R98, R113: a run that has faulted ignores every proper request that follows. -/
theorem run_append_of_faulted {before after : List HostEvent} {t : State} (h : run before = .next t)
    (ht : FaultedFinal t) (hproper : AllRequestsProper after) (hr : HostEvent.reset ∉ after) :
    run (before ++ after) = .next t := by
  obtain ⟨hfinal, herr⟩ := ht
  have hbefore : performEvents before.length (start (before ++ after)) = .next (setPort after t) :=
    performEvents_append (s := start before) rfl h after
  calc run (before ++ after)
      = performEvents (before.length + after.length) (start (before ++ after)) := by rw [run, List.length_append]
    _ = performEvents after.length (setPort after t) := performEvents_add hbefore _
    _ = .next (setPort [] t) := performEvents_of_err herr hproper hr
    _ = .next t := by rw [← hfinal, setPort_self]

/-- Settles O59: R28 is kept by every step, no step but the reset input clears anything sticky, a proper list is
performed to its end, and a faulted run ignores what follows. -/
theorem reachableStatesAreConsistent : Obligations.ReachableStatesAreConsistent := by
  refine ⟨fun s hs => ⟨consistent_of_reachable hs, fun t h hr => ?_⟩, fun events hproper => ?_,
    fun before after t => run_append_of_faulted⟩
  · exact ⟨fun cal => step_keeps_cal h hr, (step_clearsNothing h hr).ovf, (step_clearsNothing h hr).err⟩
  · obtain ⟨t, ht, hreach, hfinal⟩ := performEvents_ends (.start events) rfl hproper
    exact ⟨t, ht, hreach, goodFinal_or_faultedFinal hfinal⟩

end Sys2Proof.Proofs

/-! PROOFS. The remaining family: the request of a table word, as the decoder reads it and as the next step performs
it. -/

namespace Sys2Proof.Proofs

open Sys2Proof.Machine

/-- R39, R44: the decoder reads a request from a table word only where the word's bytes are exactly that request. -/
theorem decode_tableBytes_of_decodeTableWord {nbits w : Nat} {i : Instr} (h : decodeTableWord nbits w = some i) :
    decode (tableBytes nbits w) = .instr i [] := by
  unfold decodeTableWord at h
  split at h
  case h_1 j hd =>
    obtain rfl : j = i := Option.some.inj h
    exact hd
  all_goals cases h

/-- R36: the step after a table word is presented puts the word's bytes to the boundary check, and what the host had to
present before is left as it was. -/
theorem step_withFetchWord (s : State) (nbits w : Nat) :
    step (s.withFetchWord nbits w) = performRequest (tableBytes nbits w) s := by
  have hport : (s.withFetchWord nbits w).port = .request (tableBytes nbits w) :: s.port := rfl
  rw [step_request hport, State.withFetchWord, presentTableWord, setPort_setPort, setPort_self]

/-- Settles O7: the word's bytes are exactly the request, and the next step puts them to `exec`. -/
theorem tableWordIsPerformedNext : Obligations.TableWordIsPerformedNext := by
  intro s nbits w i h
  rw [step_withFetchWord, performRequest_of_instr (decode_tableBytes_of_decodeTableWord h)]

end Sys2Proof.Proofs
